-- ==== Sys2Proof/Word.lean ====
section
/-! DEFINITION. The word types: the 32-bit command word (30_encoding.md R60) and the 8-bit Sample (00_scope.md R5). -/

namespace Sys2Proof

/-- A command word (R60), and the width the read port answers with (10_state.md R20). -/
abbrev Word := BitVec 32

/-- "an 8-bit unsigned integer channel value" (00_scope.md R5, R9). -/
abbrev Sample := BitVec 8

end Sys2Proof
end

