-- ==== Sys2Proof/Config.lean ====
section
/-! DEFINITION. The configuration: the parameters the spec leaves open (00_scope.md R6), the constants it fixes that
are not part of one instruction's arithmetic, and the two instances it writes out, REF and LIN (41_gamma.md §5, §6).
What makes a configuration well formed (WF1 to WF3) is Sys2Proof/WellFormed.lean. -/

namespace Sys2Proof

/-- The open parameters (00_scope.md R6). "The model takes each as an argument (a configuration field)": they stand in
`Machine.State.cfg`, no step changes them, and every statement quantifies over them (log 1). -/
structure Config where
  /-- TAB_FIX: D00's "fix" in "index = value >> (fix+2)". -/
  tabFix : Nat
  /-- TAB_SIZE: the linear→gamma table has TAB_SIZE + 1 entries. -/
  tabSize : Nat
  /-- G2L: the gamma→linear table, indexed by a Sample. -/
  g2l : List Nat
  /-- L2G: the linear→gamma table, indexed 0..TAB_SIZE. -/
  l2g : List Nat
  /-- WMAX: the largest WIDTH the block takes. -/
  wmax : Nat
  /-- SRC_SIZE: pixels in SRC. -/
  srcSize : Nat
  /-- DST_SIZE: Samples in DST. -/
  dstSize : Nat
  deriving DecidableEq, Repr

/-- ACC_MAX = ⌈WMAX/2⌉, the entries of the accumulator file (R6, R21). -/
def Config.accMax (c : Config) : Nat := (c.wmax + 1) >>> 1

/-- max(G2L), as WF2 of R6 uses it. -/
def Config.maxG2l (c : Config) : Nat := c.g2l.foldl max 0

/-- G2L of the REF instance (41_gamma.md §5). -/
def Config.refG2l : List Nat :=
    [0, 49, 85, 117, 147, 176, 204, 231, 257, 282, 307, 331, 355, 379, 402, 425]
    ++ [447, 469, 491, 513, 534, 556, 577, 598, 618, 639, 659, 679, 699, 719, 739, 759]
    ++ [778, 798, 817, 836, 855, 874, 893, 912, 930, 949, 967, 986, 1004, 1022, 1040, 1059]
    ++ [1077, 1094, 1112, 1130, 1148, 1165, 1183, 1200, 1218, 1235, 1252, 1270, 1287, 1304, 1321, 1338]
    ++ [1355, 1372, 1389, 1406, 1422, 1439, 1456, 1472, 1489, 1505, 1522, 1538, 1555, 1571, 1587, 1604]
    ++ [1620, 1636, 1652, 1668, 1684, 1700, 1716, 1732, 1748, 1764, 1780, 1796, 1812, 1827, 1843, 1859]
    ++ [1874, 1890, 1905, 1921, 1937, 1952, 1967, 1983, 1998, 2014, 2029, 2044, 2059, 2075, 2090, 2105]
    ++ [2120, 2135, 2151, 2166, 2181, 2196, 2211, 2226, 2241, 2256, 2270, 2285, 2300, 2315, 2330, 2345]
    ++ [2359, 2374, 2389, 2403, 2418, 2433, 2447, 2462, 2477, 2491, 2506, 2520, 2535, 2549, 2564, 2578]
    ++ [2592, 2607, 2621, 2636, 2650, 2664, 2679, 2693, 2707, 2721, 2736, 2750, 2764, 2778, 2792, 2806]
    ++ [2820, 2835, 2849, 2863, 2877, 2891, 2905, 2919, 2933, 2947, 2961, 2975, 2988, 3002, 3016, 3030]
    ++ [3044, 3058, 3072, 3085, 3099, 3113, 3127, 3140, 3154, 3168, 3182, 3195, 3209, 3222, 3236, 3250]
    ++ [3263, 3277, 3291, 3304, 3318, 3331, 3345, 3358, 3372, 3385, 3399, 3412, 3426, 3439, 3452, 3466]
    ++ [3479, 3493, 3506, 3519, 3533, 3546, 3559, 3573, 3586, 3599, 3612, 3626, 3639, 3652, 3665, 3678]
    ++ [3692, 3705, 3718, 3731, 3744, 3757, 3771, 3784, 3797, 3810, 3823, 3836, 3849, 3862, 3875, 3888]
    ++ [3901, 3914, 3927, 3940, 3953, 3966, 3979, 3992, 4005, 4018, 4031, 4044, 4056, 4069, 4082, 4095]

/-- L2G of the REF instance (41_gamma.md §5). -/
def Config.refL2g : List Nat :=
    [0, 3, 8, 13, 19, 25, 31, 38, 45, 52, 60, 67, 75, 83, 91, 99]
    ++ [107, 116, 124, 133, 142, 151, 160, 169, 178, 187, 197, 206, 216, 226, 235, 245, 255]

/-- REF tables with the memory sizes of the spec's vectors (95_test_vectors.md: "WMAX = 16, SRC_SIZE = 16,
DST_SIZE = 32"). PRESUMED for the tables (general knowledge, U1), DESIGN CHOICE for its use at reset: log 2. -/
def Config.ref : Config :=
  { tabFix := 7, tabSize := 32, g2l := Config.refG2l, l2g := Config.refL2g, wmax := 16, srcSize := 16, dstSize := 32 }

/-- LIN tables (41_gamma.md §6: G2L[v] = 16·v, L2G[k] = 8·k), same sizes: a test fixture. -/
def Config.lin : Config :=
  { Config.ref with g2l := (List.range 256).map (16 * ·), l2g := (List.range 33).map (8 * ·) }

end Sys2Proof
end

