-- ==== Sys2Proof/Syntax.lean ====
section
/-! DEFINITION. The twelve commands of 30_encoding.md R65, one constructor per row of spec/opcode_table.json, with the
operand fields of formats S and B (R62, R63). All other operands are implicit registers (R64). -/

namespace Sys2Proof

inductive Instr where
  /-- SET reg, imm (40_control.md R80): `reg` a register number 0..15, `imm` a 22-bit unsigned immediate. -/
  | set (reg : BitVec 4) (imm : BitVec 22)
  /-- RESET (40_control.md R83). -/
  | reset
  /-- G2L (41_gamma.md R95). -/
  | g2l
  /-- L2G k (41_gamma.md R96): `k` the shift. -/
  | l2g (k : BitVec 1)
  /-- RGB2Y (43_convert.md R127). -/
  | rgb2y
  /-- RGB2U (43_convert.md R128). -/
  | rgb2u
  /-- RGB2V (43_convert.md R129). -/
  | rgb2v
  /-- ACCUM (42_accumulate.md R111). -/
  | accum
  /-- ACCUM1 (42_accumulate.md R116), reserved-unimplemented. -/
  | accum1
  /-- ACCUMA (42_accumulate.md R117), reserved-unimplemented. -/
  | accuma
  /-- CVTUV (43_convert.md R131). -/
  | cvtuv
  /-- CVTY k (43_convert.md R135): `k` the row, 0 = top, 1 = bottom. -/
  | cvty (k : BitVec 1)
  deriving DecidableEq, Repr

end Sys2Proof
end

