-- ==== Sys2Proof/WellFormed.lean ====
section
/-! DEFINITION. Well-formedness of instructions (30_encoding.md R68) and of configurations (00_scope.md R6). -/

namespace Sys2Proof

/-- An instruction is well formed when it has a legal encoding: "SET with reg = 15 is an illegal encoding
(register 15 does not exist)" (R68). Every other operand value of every command is legal. -/
def Instr.wf : Instr → Bool
  | .set reg _ => reg != 15#4
  | .reset => true
  | .g2l => true
  | .l2g _ => true
  | .rgb2y => true
  | .rgb2u => true
  | .rgb2v => true
  | .accum => true
  | .accum1 => true
  | .accuma => true
  | .cvtuv => true
  | .cvty _ => true

/-- The tables have the number of entries R6 gives them: G2L 256, L2G TAB_SIZE + 1, with TAB_SIZE ≥ 1. -/
def Config.tablesSized (c : Config) : Bool :=
  c.g2l.length == 256 && decide (1 ≤ c.tabSize) && c.l2g.length == c.tabSize + 1

/-- The ranges R6 gives WMAX, SRC_SIZE and DST_SIZE. -/
def Config.sizesInRange (c : Config) : Bool :=
  decide (1 ≤ c.wmax) && decide (c.wmax ≤ 16383) && decide (1 ≤ c.srcSize) && decide (c.srcSize ≤ 2 ^ 22)
    && decide (1 ≤ c.dstSize) && decide (c.dstSize ≤ 2 ^ 22)

/-- WF1: 1 ≤ TAB_FIX ≤ 14. -/
def Config.wf1 (c : Config) : Bool := decide (1 ≤ c.tabFix) && decide (c.tabFix ≤ 14)

/-- WF2: (4 · max(G2L)) >> (TAB_FIX + 2) < TAB_SIZE. -/
def Config.wf2 (c : Config) : Bool := decide ((4 * c.maxG2l) >>> (c.tabFix + 2) < c.tabSize)

/-- WF3: every G2L entry is in [0, 65535] and every L2G entry is in [0, 16383]. -/
def Config.wf3 (c : Config) : Bool :=
  c.g2l.all (fun e => decide (e ≤ 65535)) && c.l2g.all (fun e => decide (e ≤ 16383))

/-- A configuration the model takes (R6). "the model refuses (gives no machine for) a configuration that is not well
formed": `Machine.step` refuses it by name (log 3). -/
def Config.wf (c : Config) : Bool := c.tablesSized && c.sizesInRange && c.wf1 && c.wf2 && c.wf3

end Sys2Proof
end

