-- ==== Sys2Proof/Decode.lean ====
section
/-! DEFINITION. The command encoding (30_encoding.md): the fields of a word, the decoder, total and rejecting by name
(R66, R67), the encoder (R61 to R63), the opcode map as the spec tabulates it (R65), and the assembler's
pseudo-commands and syntax (R71, R72). -/

namespace Sys2Proof

/-- op = w[31:26] (R60). -/
def opField (w : Word) : BitVec 6 := w.extractLsb' 26 6

/-- reg = w[25:22] (R62). -/
def regField (w : Word) : BitVec 4 := w.extractLsb' 22 4

/-- imm = w[21:0] (R62, R64). -/
def immField (w : Word) : BitVec 22 := w.extractLsb' 0 22

/-- k = w[0] (R63). -/
def kField (w : Word) : BitVec 1 := w.extractLsb' 0 1

/-- The must-be-zero field of format Z, w[25:0] (R61). -/
def zeroFieldZ (w : Word) : BitVec 26 := w.extractLsb' 0 26

/-- The must-be-zero field of format B, w[25:1] (R63). -/
def zeroFieldB (w : Word) : BitVec 25 := w.extractLsb' 1 25

/-- Why a word is illegal (R67, R68). -/
inductive Reject where
  /-- `op` is not one of the twelve of R65 (R67, R70). -/
  | unknownOpcode (op : BitVec 6)
  /-- A must-be-zero bit of format Z or B is set (R67). -/
  | mustBeZeroSet
  /-- SET names register 15, which does not exist (R68). -/
  | registerFifteen
  deriving DecidableEq, Repr

/-- The opcode numbers of R65. -/
def opSet : BitVec 6 := 0b000001#6
def opReset : BitVec 6 := 0b000010#6
def opG2l : BitVec 6 := 0b001000#6
def opL2g : BitVec 6 := 0b001001#6
def opRgb2y : BitVec 6 := 0b001010#6
def opRgb2u : BitVec 6 := 0b001011#6
def opRgb2v : BitVec 6 := 0b001100#6
def opAccum : BitVec 6 := 0b010000#6
def opAccum1 : BitVec 6 := 0b010001#6
def opAccuma : BitVec 6 := 0b010010#6
def opCvtuv : BitVec 6 := 0b010100#6
def opCvty : BitVec 6 := 0b010101#6

/-- A format Z word (R61): legal only when w[25:0] = 0. -/
def decodeZ (i : Instr) (w : Word) : Except Reject Instr :=
  if zeroFieldZ w = 0#26 then .ok i else .error .mustBeZeroSet

/-- A format B word (R63): legal only when w[25:1] = 0. -/
def decodeB (i : BitVec 1 → Instr) (w : Word) : Except Reject Instr :=
  if zeroFieldB w = 0#25 then .ok (i (kField w)) else .error .mustBeZeroSet

/-- A format S word (R62): legal for every register number but 15 (R68). -/
def decodeS (i : BitVec 4 → BitVec 22 → Instr) (w : Word) : Except Reject Instr :=
  if regField w = 15#4 then .error .registerFifteen else .ok (i (regField w) (immField w))

/-- The decoder (R65 to R68): total, and "looks at nothing but the word" (R66). -/
def decode (w : Word) : Except Reject Instr :=
  let op := opField w
  if op = opSet then decodeS .set w
  else if op = opReset then decodeZ .reset w
  else if op = opG2l then decodeZ .g2l w
  else if op = opL2g then decodeB .l2g w
  else if op = opRgb2y then decodeZ .rgb2y w
  else if op = opRgb2u then decodeZ .rgb2u w
  else if op = opRgb2v then decodeZ .rgb2v w
  else if op = opAccum then decodeZ .accum w
  else if op = opAccum1 then decodeZ .accum1 w
  else if op = opAccuma then decodeZ .accuma w
  else if op = opCvtuv then decodeZ .cvtuv w
  else if op = opCvty then decodeB .cvty w
  else .error (.unknownOpcode op)

/-- Format Z: op ‖ 0 (R61). -/
def formatZ (op : BitVec 6) : Word := op ++ 0#26

/-- Format S: op ‖ reg ‖ imm (R62). -/
def formatS (op : BitVec 6) (reg : BitVec 4) (imm : BitVec 22) : Word := op ++ reg ++ imm

/-- Format B: op ‖ 0 ‖ k (R63). -/
def formatB (op : BitVec 6) (k : BitVec 1) : Word := op ++ 0#25 ++ k

/-- The encoder: the one word of each command (R61 to R65). For SET with reg = 15 it gives the illegal word R68 names. -/
def encode : Instr → Word
  | .set reg imm => formatS opSet reg imm
  | .reset => formatZ opReset
  | .g2l => formatZ opG2l
  | .l2g k => formatB opL2g k
  | .rgb2y => formatZ opRgb2y
  | .rgb2u => formatZ opRgb2u
  | .rgb2v => formatZ opRgb2v
  | .accum => formatZ opAccum
  | .accum1 => formatZ opAccum1
  | .accuma => formatZ opAccuma
  | .cvtuv => formatZ opCvtuv
  | .cvty k => formatB opCvty k

/-- What the decoder reads from an instruction's bits numbered as spec/opcode_table.json numbers them. Every command is
one 32-bit word (R60), so bits above `nbits` are 0 and an instruction wider than 32 bits is none. -/
def decodeTableWord (nbits w : Nat) : Option Instr :=
  if nbits ≤ 32 then (decode (BitVec.ofNat 32 (w % 2 ^ nbits))).toOption else none

/-- One row of the opcode map: "word w encodes the command exactly when (w & mask) = match" (R65). -/
structure OpcodeRow where
  mnemonic : String
  matchBits : Word
  mask : Word
  deriving DecidableEq, Repr

/-- Whether a word matches a row (R65). -/
def OpcodeRow.hit (r : OpcodeRow) (w : Word) : Bool := w &&& r.mask == r.matchBits

/-- The row of R65 each command stands in, its match and mask as tabulated there. -/
def Instr.row : Instr → OpcodeRow
  | .set _ _ => ⟨"SET", 0x04000000#32, 0xFC000000#32⟩
  | .reset => ⟨"RESET", 0x08000000#32, 0xFFFFFFFF#32⟩
  | .g2l => ⟨"G2L", 0x20000000#32, 0xFFFFFFFF#32⟩
  | .l2g _ => ⟨"L2G", 0x24000000#32, 0xFFFFFFFE#32⟩
  | .rgb2y => ⟨"RGB2Y", 0x28000000#32, 0xFFFFFFFF#32⟩
  | .rgb2u => ⟨"RGB2U", 0x2C000000#32, 0xFFFFFFFF#32⟩
  | .rgb2v => ⟨"RGB2V", 0x30000000#32, 0xFFFFFFFF#32⟩
  | .accum => ⟨"ACCUM", 0x40000000#32, 0xFFFFFFFF#32⟩
  | .accum1 => ⟨"ACCUM1", 0x44000000#32, 0xFFFFFFFF#32⟩
  | .accuma => ⟨"ACCUMA", 0x48000000#32, 0xFFFFFFFF#32⟩
  | .cvtuv => ⟨"CVTUV", 0x50000000#32, 0xFFFFFFFF#32⟩
  | .cvty _ => ⟨"CVTY", 0x54000000#32, 0xFFFFFFFE#32⟩

/-- The opcode map of R65, row by row. -/
def opcodeTable : List OpcodeRow :=
  [Instr.row (.set 0 0), Instr.row .reset, Instr.row .g2l, Instr.row (.l2g 0), Instr.row .rgb2y, Instr.row .rgb2u,
   Instr.row .rgb2v, Instr.row .accum, Instr.row .accum1, Instr.row .accuma, Instr.row .cvtuv, Instr.row (.cvty 0)]

/-- A number as SET's 22-bit operand: "0 ≤ imm < 2^22; the assembler rejects a larger number" (R71). -/
def immediate (n : Nat) : Option (BitVec 22) := if n < 2 ^ 22 then some (BitVec.ofNat 22 n) else none

/-- Pseudo-command CVTPAIR (R72). -/
def pseudoCvtPair : List Instr := [.accum, .cvtuv, .cvty 0#1, .cvty 1#1]

/-- Pseudo-command SETRGB r, g, b (R72): registers 7, 8, 9. -/
def pseudoSetRgb (r g b : BitVec 22) : List Instr := [.set 7#4 r, .set 8#4 g, .set 9#4 b]

/-- Pseudo-command SETPAIR s0, s1, y0, y1, u, v (R72): registers 1 to 6. -/
def pseudoSetPair (s0 s1 y0 y1 u v : BitVec 22) : List Instr :=
  [.set 1#4 s0, .set 2#4 s1, .set 3#4 y0, .set 4#4 y1, .set 5#4 u, .set 6#4 v]

/-- Pseudo-command ABORT (R72). -/
def pseudoAbort : List Instr := [.reset]

/-- The host's layout of row pair p of a width-w image (20_memory.md R56), with plane origins Y0, U0, V0 and source
origin S0: SET WIDTH, then SETPAIR. Advice to the host; the block checks only bounds and U/V overlap. DESIGN CHOICE
(log 21): a layout with a value of 2^22 or more has no such words, SET's number being 22 bits, and gives none; R56 does
not speak of it. -/
def hostRowPair (w p s0 y0 u0 v0 : Nat) : Option (List Instr) :=
  let n := (w + 1) / 2
  let values := [w, s0 + 2 * p * w, s0 + (2 * p + 1) * w, y0 + 2 * p * w, y0 + (2 * p + 1) * w, u0 + p * n, v0 + p * n]
  match values.mapM immediate with
  | some [w, s0, s1, y0, y1, u, v] => some (.set 0#4 w :: pseudoSetPair s0 s1 y0 y1 u v)
  | _ => none

/-- The register names the assembler writes (R71), by number; register 15 has none. -/
def registerNames : List String :=
  ["WIDTH", "SRC0", "SRC1", "YDST0", "YDST1", "UDST", "VDST", "A0", "A1", "A2", "RND", "RES", "STATUS", "ACCN", "ECMD"]

/-- A command as the assembler writes it (R71). -/
def Instr.asm (i : Instr) : String :=
  match i with
  | .set reg imm => "SET " ++ registerNames.getD reg.toNat "x15" ++ ", " ++ toString imm.toNat
  | .l2g k => "L2G " ++ toString k.toNat
  | .cvty k => "CVTY " ++ toString k.toNat
  | .reset => "RESET"
  | .g2l => "G2L"
  | .rgb2y => "RGB2Y"
  | .rgb2u => "RGB2U"
  | .rgb2v => "RGB2V"
  | .accum => "ACCUM"
  | .accum1 => "ACCUM1"
  | .accuma => "ACCUMA"
  | .cvtuv => "CVTUV"

/-- `SET reg, imm` from numbers: "0 ≤ imm < 2^22; the assembler rejects a larger number" (R71). -/
def assembleSet (reg : BitVec 4) (imm : Nat) : Option Instr := (immediate imm).map (.set reg)

end Sys2Proof
end

