-- ==== Sys2Proof/Machine/State.lean ====
section
/-! DEFINITION. The machine's state as plain data (10_state.md R10 to R25), what the host may do to the block
(20_memory.md R57), the fault causes (60_exceptions.md R160), the two ways the model can stop, and the state after
reset (R30, R31). -/

namespace Sys2Proof.Machine

/-- A pixel: an (R, G, B, A) quadruple of Samples (10_state.md R24). -/
structure Pixel where
  r : Sample
  g : Sample
  b : Sample
  a : Sample
  deriving DecidableEq, Repr

/-- An accumulator entry: a triple of unsigned 16-bit lanes, no fourth lane (10_state.md R21). -/
structure AccEntry where
  r : BitVec 16
  g : BitVec 16
  b : BitVec 16
  deriving DecidableEq, Repr

/-- A memory: (address, byte) pairs in canonical form (`Memory.wf` of Machine/Ops.lean). DST has one byte per element
(R25); SRC has four per pixel, in the order r, g, b, a at 4a, 4a+1, 4a+2, 4a+3 (20_memory.md R43, log 6). -/
abbrev Memory := List Host.Cell

/-- The registers SET may write ("rw" in 10_state.md R11). -/
inductive RwReg where
  | width | src0 | src1 | ydst0 | ydst1 | udst | vdst | a0 | a1 | a2 | rnd
  deriving DecidableEq, Repr

/-- The registers only the block writes ("ro" in 10_state.md R11). -/
inductive RoReg where
  | res | status | accn | ecmd
  deriving DecidableEq, Repr

/-- The fifteen registers of 10_state.md R11; number 15 does not exist. -/
inductive Reg where
  | rw (r : RwReg)
  | ro (r : RoReg)
  deriving DecidableEq, Repr

/-- The seven fault causes (60_exceptions.md R160); their codes are `Cause.code` of Machine/Flags.lean. -/
inductive Cause where
  /-- E_ILLEGAL: the word matches no command, or SET names register 15. -/
  | illegal
  /-- E_OPERAND: SET to a read-only register or RND ≥ 2^18; a scalar operand outside the function's domain. -/
  | operand
  /-- E_WIDTH: SET WIDTH with 0 or more than WMAX; ACCUM or CVTY while WIDTH = 0. -/
  | width
  /-- E_BOUNDS: a source or destination range runs past the end of its memory. -/
  | bounds
  /-- E_OVERLAP: the U and V destination ranges share an element. -/
  | overlap
  /-- E_ACCEMPTY: ACCN = 0. -/
  | accEmpty
  /-- E_UNIMPL: ACCUM1 and ACCUMA, always. -/
  | unimpl
  deriving DecidableEq, Repr

/-- Everything the host can do to the block (20_memory.md R57), each between commands (R52). -/
inductive HostAction where
  /-- Issue a command word. -/
  | command (w : Word)
  /-- Write `SRC[a]`. -/
  | writeSrc (a : Nat) (p : Pixel)
  /-- Read `SRC[a]`. -/
  | readSrc (a : Nat)
  /-- Write `DST[a]`. -/
  | writeDst (a : Nat) (v : Sample)
  /-- Read `DST[a]`. -/
  | readDst (a : Nat)
  /-- Read register n through the read port (10_state.md R20). -/
  | readReg (n : BitVec 4)
  /-- Assert hardware reset (70_reset_and_hazards.md R190). -/
  | hardReset
  deriving DecidableEq, Repr

/-- The state: the fifteen registers (ACCN as the number of entries of `acc`, log 7), ACC, SRC and DST, which is all
the spec gives the machine (R10), and the model's own `cfg` (log 1) and `port` (log 4). -/
structure State where
  /-- WIDTH, register 0 (R13). -/
  width : BitVec 14
  /-- SRC0, register 1 (R14). -/
  src0 : BitVec 22
  /-- SRC1, register 2 (R14). -/
  src1 : BitVec 22
  /-- YDST0, register 3 (R15). -/
  ydst0 : BitVec 22
  /-- YDST1, register 4 (R15). -/
  ydst1 : BitVec 22
  /-- UDST, register 5 (R15). -/
  udst : BitVec 22
  /-- VDST, register 6 (R15). -/
  vdst : BitVec 22
  /-- A0, register 7 (R16). -/
  a0 : BitVec 22
  /-- A1, register 8 (R16). -/
  a1 : BitVec 22
  /-- A2, register 9 (R16). -/
  a2 : BitVec 22
  /-- RND, register 10 (R16). -/
  rnd : BitVec 18
  /-- RES, register 11 (R17). -/
  res : BitVec 22
  /-- STATUS, register 12, the one field ERR = STATUS[3:0] (R18). -/
  status : BitVec 4
  /-- ECMD, register 14: the word of the command that caused the fault (R19). -/
  ecmd : Word
  /-- ACC: the entries that hold a value, ACC[0] .. ACC[ACCN − 1] (R21); a missing entry holds no value (R22).
  ACCN, register 13, is the length of this list. -/
  acc : List AccEntry
  /-- SRC, the source memory (R24). -/
  src : Memory
  /-- DST, the destination memory (R25). -/
  dst : Memory
  /-- The configuration (00_scope.md R6); no step changes it. -/
  cfg : Config
  /-- The host's actions not yet served, oldest first (R12, 20_memory.md R57). -/
  port : List HostAction
  deriving DecidableEq, Repr

/-- Ways the machine could stop. It has none: "It never gets stuck and never refuses: every word in every state has
exactly one successor state" (60_exceptions.md R175). A fault of the spec (ERR ≠ 0) is a next state (log 13). Safe. -/
inductive Fault where
  deriving DecidableEq, Repr

/-- Why the model gives no step. -/
inductive Refusal where
  /-- Raised by an arm of `exec` whose instruction has no meaning yet; no arm raises it. Safe. -/
  | notModelled (mnemonic : String)
  /-- Raised by `step` on a configuration that is not well formed (00_scope.md R6). Safe: such a machine is not in the
  spec (log 3). -/
  | configNotWellFormed
  /-- Raised by `serve` on a host access to an element index outside the space: "the model gives the host no such move"
  (20_memory.md R57, I17). Safe (log 9). -/
  | hostAccessOutsideSpace
  deriving DecidableEq, Repr

/-- ACCN, register 13, "number of valid ACC entries" (R11, R21), 14 bits. -/
def State.accn (s : State) : BitVec 14 := BitVec.ofNat 14 s.acc.length

/-- A state right after reset (R30, R31) of a machine with configuration `c` and the given memory contents, which reset
leaves unchanged and which at power-up are any value (R32): every register 0, no ACC entry, nothing pending. -/
def State.resetWith (c : Config) (src dst : Memory) : State where
  width := 0
  src0 := 0
  src1 := 0
  ydst0 := 0
  ydst1 := 0
  udst := 0
  vdst := 0
  a0 := 0
  a1 := 0
  a2 := 0
  rnd := 0
  res := 0
  status := 0
  ecmd := 0
  acc := []
  src := src
  dst := dst
  cfg := c
  port := []

/-- The machine right after reset (R30, R31). DESIGN CHOICE: the configuration is REF with the vectors' sizes (log 2)
and the memories, which the spec leaves any value at power-up, list nothing (log 5). -/
def State.reset : State := State.resetWith Config.ref [] []

end Sys2Proof.Machine
end

