-- ==== Sys2Proof/Machine/Flags.lean ====
section
/-! DEFINITION. STATUS, the one flag register (10_state.md R18: ERR = STATUS[3:0], "the only flag the block has"): the
cause codes, the run and fault states, and the gate every command but RESET passes. -/

namespace Sys2Proof.Machine

/-- The outcome type of every meaning. -/
abbrev Result := Host.Outcome State Fault Refusal

/-- The cause codes of ERR (60_exceptions.md R160). -/
def Cause.code : Cause → BitVec 4
  | .illegal => 1
  | .operand => 2
  | .width => 3
  | .bounds => 4
  | .overlap => 5
  | .accEmpty => 6
  | .unimpl => 7

/-- The run state: "ERR = 0 means the block is in the run state; ERR ≠ 0 means it is in the fault state" (R18). -/
abbrev State.running (s : State) : Prop := s.status = 0#4

/-- The fault-state gate (60_exceptions.md R166, first in the order of R168): in the fault state a command is
discarded, "it changes no state at all". -/
def gate (s : State) (run : Result) : Result := if s.running then run else .next s

end Sys2Proof.Machine
end

