-- ==== Sys2Proof/Machine/Ops.lean ====
section
/-! DEFINITION. The named operations over memory and registers: reading and writing a byte, a pixel, a row of Samples;
the block's own register writes; taking a fault (60_exceptions.md R165) and the return from it, which is reset (R167). -/

namespace Sys2Proof.Machine

/-- What an address the memory does not list reads as. DESIGN CHOICE: the spec leaves power-up contents any value (R32),
every contents can be listed, and statements quantify over the memory (log 5). -/
def Memory.unlisted : Sample := 0#8

/-- Read one byte. -/
def Memory.read : Memory → Nat → Sample
  | [], _ => Memory.unlisted
  | c :: m, a => if c.1 = a then c.2 else if a < c.1 then Memory.unlisted else Memory.read m a

/-- A cell for the byte `v` at `a`, or none where the address reads as `v` unlisted. -/
def Memory.cell (a : Nat) (v : Sample) : Memory := if v = Memory.unlisted then [] else [(a, v)]

/-- Write one byte, keeping the canonical form. -/
def Memory.write : Memory → Nat → Sample → Memory
  | [], a, v => Memory.cell a v
  | c :: m, a, v =>
    if c.1 = a then Memory.cell a v ++ m
    else if a < c.1 then Memory.cell a v ++ c :: m
    else c :: Memory.write m a v

/-- The canonical form from address `lo` on: addresses strictly rising, no entry equal to what an unlisted address
reads as. -/
def Memory.wfFrom : Nat → Memory → Bool
  | _, [] => true
  | lo, c :: m => decide (lo ≤ c.1) && c.2 != Memory.unlisted && Memory.wfFrom (c.1 + 1) m

/-- The canonical form. -/
def Memory.wf (m : Memory) : Bool := Memory.wfFrom 0 m

/-- No byte is listed at or above `size`: a memory holds the elements its space has, and no others (R24, R25). -/
def Memory.within (size : Nat) (m : Memory) : Bool := m.all (fun c => decide (c.1 < size))

/-- `SRC[a]`: the four Samples at byte offsets 4a .. 4a+3 in the order r, g, b, a (20_memory.md R43). -/
def Memory.pixel (m : Memory) (a : Nat) : Pixel :=
  ⟨m.read (4 * a), m.read (4 * a + 1), m.read (4 * a + 2), m.read (4 * a + 3)⟩

/-- Write `SRC[a]` (R43, R57). -/
def Memory.writePixel (m : Memory) (a : Nat) (p : Pixel) : Memory :=
  (((m.write (4 * a) p.r).write (4 * a + 1) p.g).write (4 * a + 2) p.b).write (4 * a + 3) p.a

/-- Write a row of Samples at `base`, `base + 1`, ... in ascending order (00_scope.md R8, "for i in a..b"). -/
def Memory.writeRow : Memory → Nat → List Sample → Memory
  | m, _, [] => m
  | m, base, v :: vs => Memory.writeRow (m.write base v) (base + 1) vs

/-- A pixel as a 32-bit word: a ‖ b ‖ g ‖ r (R43). -/
def Pixel.word (p : Pixel) : Word := p.a ++ p.b ++ p.g ++ p.r

/-- RES <- v, zero-extended to 22 bits (10_state.md R17); `v` always fits, so nothing is truncated. -/
def State.setRes (s : State) (v : Nat) : State := { s with res := BitVec.ofNat 22 v }

/-- ACC and ACCN together: the entries given hold values, every other entry holds no value (R21). -/
def State.setAcc (s : State) (acc : List AccEntry) : State := { s with acc := acc }

/-- Replace the contents of SRC (host only, R41). -/
def State.setSrc (s : State) (m : Memory) : State := { s with src := m }

/-- Replace the contents of DST. -/
def State.setDst (s : State) (m : Memory) : State := { s with dst := m }

/-- Fault entry, `raise E_X(w)`: "STATUS <- code(E_X) ; ECMD <- w" and nothing else (60_exceptions.md R165). -/
def State.raise (s : State) (c : Cause) (w : Word) : State := { s with status := c.code, ecmd := w }

/-- Reset, by the RESET command or the hardware input (10_state.md R30, 70_reset_and_hazards.md R190): every register 0,
no ACC entry holds a value; SRC, DST and the configuration unchanged. The only return from the fault state (R167). -/
def State.doReset (s : State) : State := { State.resetWith s.cfg s.src s.dst with port := s.port }

/-- A command raises a fault: the next state is the fault state with the command's own word in ECMD (R165). The word of
a command is the one `encode` gives, since each command has one word (R65, log 8). -/
def raiseBy (c : Cause) (i : Instr) (s : State) : Result := .next (s.raise c (encode i))

end Sys2Proof.Machine
end

