-- ==== Sys2Proof/Machine/Operands.lean ====
section
/-! DEFINITION. Operand forms: registers by number (10_state.md R11), the read port (R20), the row bases and pixels
(R14, R15), the scalar operands' domains (R95, R127, R128) and the bounds and overlap checks (20_memory.md R46,
43_convert.md R132). -/

namespace Sys2Proof.Machine

/-- Register numbers (10_state.md R11). "Register number 15 does not exist." -/
def Reg.ofNum? (n : BitVec 4) : Option Reg :=
  match n.toNat with
  | 0 => some (.rw .width)
  | 1 => some (.rw .src0)
  | 2 => some (.rw .src1)
  | 3 => some (.rw .ydst0)
  | 4 => some (.rw .ydst1)
  | 5 => some (.rw .udst)
  | 6 => some (.rw .vdst)
  | 7 => some (.rw .a0)
  | 8 => some (.rw .a1)
  | 9 => some (.rw .a2)
  | 10 => some (.rw .rnd)
  | 11 => some (.ro .res)
  | 12 => some (.ro .status)
  | 13 => some (.ro .accn)
  | 14 => some (.ro .ecmd)
  | _ => none

/-- A register's value zero-extended to 32 bits. -/
def State.readReg (s : State) : Reg → Word
  | .rw .width => s.width.setWidth 32
  | .rw .src0 => s.src0.setWidth 32
  | .rw .src1 => s.src1.setWidth 32
  | .rw .ydst0 => s.ydst0.setWidth 32
  | .rw .ydst1 => s.ydst1.setWidth 32
  | .rw .udst => s.udst.setWidth 32
  | .rw .vdst => s.vdst.setWidth 32
  | .rw .a0 => s.a0.setWidth 32
  | .rw .a1 => s.a1.setWidth 32
  | .rw .a2 => s.a2.setWidth 32
  | .rw .rnd => s.rnd.setWidth 32
  | .ro .res => s.res.setWidth 32
  | .ro .status => s.status.setWidth 32
  | .ro .accn => s.accn.setWidth 32
  | .ro .ecmd => s.ecmd

/-- The register read port: "the host may read any register 0..14 by number and obtains its current value
zero-extended to 32 bits; reading register 15 returns 0" (10_state.md R20). -/
def State.readPort (s : State) (n : BitVec 4) : Word :=
  match Reg.ofNum? n with
  | some r => s.readReg r
  | none => 0#32

/-- x[reg] <- imm for the registers SET may write (40_control.md R80). WIDTH keeps 14 and RND 18 bits; SET has checked
that the value fits (R81). -/
def State.writeReg (s : State) (r : RwReg) (imm : BitVec 22) : State :=
  match r with
  | .width => { s with width := imm.setWidth 14 }
  | .src0 => { s with src0 := imm }
  | .src1 => { s with src1 := imm }
  | .ydst0 => { s with ydst0 := imm }
  | .ydst1 => { s with ydst1 := imm }
  | .udst => { s with udst := imm }
  | .vdst => { s with vdst := imm }
  | .a0 => { s with a0 := imm }
  | .a1 => { s with a1 := imm }
  | .a2 => { s with a2 := imm }
  | .rnd => { s with rnd := imm.setWidth 18 }

/-- x[SRC0 + k]: the source base of the row k selects (43_convert.md R135). -/
def State.srcBase (s : State) (k : BitVec 1) : Nat := if k = 0#1 then s.src0.toNat else s.src1.toNat

/-- x[YDST0 + k]: the luma destination base of the row k selects (43_convert.md R135). -/
def State.ydstBase (s : State) (k : BitVec 1) : Nat := if k = 0#1 then s.ydst0.toNat else s.ydst1.toNat

/-- Pixel j of row k of the pair (10_state.md R14). -/
def State.rowPixel (s : State) (k : BitVec 1) (j : Nat) : Pixel := s.src.pixel (s.srcBase k + j)

/-- "a read range [base, base + n) of SRC is in bounds when base + n ≤ SRC_SIZE" (20_memory.md R46), in unbounded
integers. -/
abbrev State.srcInBounds (s : State) (base n : Nat) : Prop := base + n ≤ s.cfg.srcSize

/-- "a write range of DST when base + n ≤ DST_SIZE" (R46). -/
abbrev State.dstInBounds (s : State) (base n : Nat) : Prop := base + n ≤ s.cfg.dstSize

/-- The ranges [u, u + n) and [v, v + n) share an element, as 43_convert.md R131 tests it. -/
abbrev rangesOverlap (u v n : Nat) : Prop := u < v + n ∧ v < u + n

/-- A0, A1, A2 are all at most `bound`: 255 for Samples (R127), 65535 for accumulator lanes (R128). -/
abbrev State.scalarsAtMost (s : State) (bound : Nat) : Prop :=
  s.a0.toNat ≤ bound ∧ s.a1.toNat ≤ bound ∧ s.a2.toNat ≤ bound

end Sys2Proof.Machine
end

