-- ==== Sys2Proof/Machine/Gamma.lean ====
section
/-! DEFINITION. The gamma functions (41_gamma.md R91 to R94) and the commands G2L and L2G (R95, R96). Arithmetic is on
exact integers (00_scope.md R8, 43_convert.md R138). -/

namespace Sys2Proof.Machine

/-- GammaToLinear(v) = G2L[v] (R91). Under a well-formed configuration the default is never read (log 15). -/
def gammaToLinear (c : Config) (v : Nat) : Nat := c.g2l.getD v 0

/-- L2G[k] (R90). Under a well-formed configuration the default is never read (log 15). -/
def l2gEntry (c : Config) (k : Nat) : Nat := c.l2g.getD k 0

/-- pos = (base << shift) >> (TAB_FIX + 2), the table position (R92). -/
def tablePos (c : Config) (base shift : Nat) : Nat := (base <<< shift) >>> (c.tabFix + 2)

/-- x = (base << shift) & (S − 1), S = 2^(TAB_FIX+2), the fraction (R92). -/
def tableFrac (c : Config) (base shift : Nat) : Nat := (base <<< shift) &&& (2 ^ (c.tabFix + 2) - 1)

/-- LinearToGamma(base, shift) (R93): y = L2G[pos+1]·x + L2G[pos]·(S − x), then (y + 2^(TAB_FIX−1)) >> TAB_FIX. The
spec marks the formula as its own decision (D17, U2): log 10. -/
def linearToGamma (c : Config) (base shift : Nat) : Nat :=
  let pos := tablePos c base shift
  let x := tableFrac c base shift
  let y := l2gEntry c (pos + 1) * x + l2gEntry c pos * (2 ^ (c.tabFix + 2) - x)
  (y + 2 ^ (c.tabFix - 1)) >>> c.tabFix

/-- G2L (R95). -/
def execG2l (s : State) : Result :=
  gate s <|
    if 255 < s.a0.toNat then raiseBy .operand .g2l s
    else .next (s.setRes (gammaToLinear s.cfg s.a0.toNat))

/-- L2G k (R96). -/
def execL2g (k : BitVec 1) (s : State) : Result :=
  gate s <|
    if s.cfg.tabSize ≤ tablePos s.cfg s.a0.toNat k.toNat then raiseBy .operand (.l2g k) s
    else .next (s.setRes (linearToGamma s.cfg s.a0.toNat k.toNat))

end Sys2Proof.Machine
end

