-- ==== Sys2Proof/Machine/Accumulate.lean ====
section
/-! DEFINITION. The chroma accumulator commands ACCUM, ACCUM1, ACCUMA (42_accumulate.md R111 to R118). -/

namespace Sys2Proof.Machine

/-- One lane of a full 2×2 block: four expanded Samples summed, re-compressed with shift 0, stored in a 16-bit cell
(R111, R112). -/
def blockLane (c : Config) (p00 p01 p10 p11 : Sample) : BitVec 16 :=
  BitVec.ofNat 16 (linearToGamma c
    (gammaToLinear c p00.toNat + gammaToLinear c p01.toNat + gammaToLinear c p10.toNat + gammaToLinear c p11.toNat) 0)

/-- One lane of a one-pixel-wide tail column: two expanded Samples summed, re-compressed with shift 1 (R111, R114). -/
def tailLane (c : Config) (p0 p1 : Sample) : BitVec 16 :=
  BitVec.ofNat 16 (linearToGamma c (gammaToLinear c p0.toNat + gammaToLinear c p1.toNat) 1)

/-- The entry of a 2×2 block, lane by lane (R112); the alpha lanes are not read (R118). -/
def blockEntry (c : Config) (p00 p01 p10 p11 : Pixel) : AccEntry where
  r := blockLane c p00.r p01.r p10.r p11.r
  g := blockLane c p00.g p01.g p10.g p11.g
  b := blockLane c p00.b p01.b p10.b p11.b

/-- The entry of a tail column (R114). -/
def tailEntry (c : Config) (p0 p1 : Pixel) : AccEntry where
  r := tailLane c p0.r p1.r
  g := tailLane c p0.g p1.g
  b := tailLane c p0.b p1.b

/-- ACC[i] of a full block, columns 2i and 2i+1 of both rows (R111). -/
def State.blockAt (s : State) (i : Nat) : AccEntry :=
  blockEntry s.cfg (s.rowPixel 0#1 (2 * i)) (s.rowPixel 0#1 (2 * i + 1)) (s.rowPixel 1#1 (2 * i))
    (s.rowPixel 1#1 (2 * i + 1))

/-- ACC[WIDTH >> 1] of an odd width, column WIDTH − 1 of both rows (R111, R114). -/
def State.tailAt (s : State) : AccEntry :=
  tailEntry s.cfg (s.rowPixel 0#1 (s.width.toNat - 1)) (s.rowPixel 1#1 (s.width.toNat - 1))

/-- The entries ACCUM leaves in ACC: WIDTH >> 1 full blocks, then a tail entry when WIDTH[0] = 1; ⌈WIDTH/2⌉ in all
(R111). -/
def State.accumulated (s : State) : List AccEntry :=
  (List.range (s.width.toNat >>> 1)).map s.blockAt ++ (if s.width.toNat % 2 = 1 then [s.tailAt] else [])

/-- ACCUM (R111): the checks in the order written there, then ACC and ACCN. -/
def execAccum (s : State) : Result :=
  gate s <|
    if s.width.toNat = 0 then raiseBy .width .accum s
    else if ¬ s.srcInBounds s.src0.toNat s.width.toNat then raiseBy .bounds .accum s
    else if ¬ s.srcInBounds s.src1.toNat s.width.toNat then raiseBy .bounds .accum s
    else .next (s.setAcc s.accumulated)

/-- ACCUM1 (R116): "raise E_UNIMPL(w)", always. -/
def execAccum1 (s : State) : Result := gate s (raiseBy .unimpl .accum1 s)

/-- ACCUMA (R117): "raise E_UNIMPL(w)", always. -/
def execAccuma (s : State) : Result := gate s (raiseBy .unimpl .accuma s)

end Sys2Proof.Machine
end

