-- ==== Sys2Proof/Machine/Control.lean ====
section
/-! DEFINITION. The control commands SET and RESET (40_control.md R80 to R83). -/

namespace Sys2Proof.Machine

/-- SET reg, imm (R80, R81), its checks in the order of R80: register 15, read-only register, WIDTH range, RND range. -/
def execSet (reg : BitVec 4) (imm : BitVec 22) (s : State) : Result :=
  gate s <|
    match Reg.ofNum? reg with
    | none => raiseBy .illegal (.set reg imm) s
    | some (.ro _) => raiseBy .operand (.set reg imm) s
    | some (.rw r) =>
      if r = .width ∧ (imm.toNat = 0 ∨ s.cfg.wmax < imm.toNat) then raiseBy .width (.set reg imm) s
      else if r = .rnd ∧ 2 ^ 18 ≤ imm.toNat then raiseBy .operand (.set reg imm) s
      else .next (s.writeReg r imm)

/-- RESET (R83), "in the run state and in the fault state alike": no gate, no fault. -/
def execReset (s : State) : Result := .next s.doReset

end Sys2Proof.Machine
end

