-- ==== Sys2Proof/Machine/Convert.lean ====
section
/-! DEFINITION. The colour-matrix functions (43_convert.md R120 to R123), the scalar conversions RGB2Y, RGB2U, RGB2V
(R127 to R129) and the row conversions CVTUV and CVTY (R130 to R135). -/

namespace Sys2Proof.Machine

/-- clip8 (00_scope.md R8, 43_convert.md R123): saturates, never wraps. -/
def clip8 (v : Int) : Nat := if v < 0 then 0 else if 255 < v then 255 else v.toNat

/-- RgbToY (R120), unclipped. The constants come first, so that the sum of unknowns is not unfolded one by one when Lean
compares two states. -/
def rgbToY (r g b rounding : Nat) : Nat := (rounding + 16 * 2 ^ 16 + (16839 * r + 33059 * g + 6420 * b)) >>> 16

/-- RgbToU (R121); `>>` is the floor shift on negative sums (00_scope.md R8). -/
def rgbToU (r g b rounding : Nat) : Nat :=
  clip8 ((-9719 * (r : Int) - 19081 * (g : Int) + 28800 * (b : Int) + (rounding : Int) + 128 * 2 ^ 18) >>> (18 : Nat))

/-- RgbToV (R122). -/
def rgbToV (r g b rounding : Nat) : Nat :=
  clip8 ((28800 * (r : Int) - 24116 * (g : Int) - 4684 * (b : Int) + (rounding : Int) + 128 * 2 ^ 18) >>> (18 : Nat))

/-- The rounding bias of the chroma row path, YuvHalf << 2 (R130). -/
def roundUvRow : Nat := 131072

/-- The rounding bias of the luma row path, YuvHalf. The spec fixes it and marks it as its own decision (R130, D16): log 11. -/
def roundYRow : Nat := 32768

/-- RGB2Y (R127). -/
def execRgb2y (s : State) : Result :=
  gate s <|
    if ¬ s.scalarsAtMost 255 then raiseBy .operand .rgb2y s
    else .next (s.setRes (rgbToY s.a0.toNat s.a1.toNat s.a2.toNat s.rnd.toNat))

/-- RGB2U (R128). -/
def execRgb2u (s : State) : Result :=
  gate s <|
    if ¬ s.scalarsAtMost 65535 then raiseBy .operand .rgb2u s
    else .next (s.setRes (rgbToU s.a0.toNat s.a1.toNat s.a2.toNat s.rnd.toNat))

/-- RGB2V (R129). -/
def execRgb2v (s : State) : Result :=
  gate s <|
    if ¬ s.scalarsAtMost 65535 then raiseBy .operand .rgb2v s
    else .next (s.setRes (rgbToV s.a0.toNat s.a1.toNat s.a2.toNat s.rnd.toNat))

/-- The U Sample of an accumulator entry (R131). -/
def AccEntry.u (e : AccEntry) : Sample := BitVec.ofNat 8 (rgbToU e.r.toNat e.g.toNat e.b.toNat roundUvRow)

/-- The V Sample of an accumulator entry (R131). -/
def AccEntry.v (e : AccEntry) : Sample := BitVec.ofNat 8 (rgbToV e.r.toNat e.g.toNat e.b.toNat roundUvRow)

/-- The writes of CVTUV in the order of R131: for i ascending, U[i] and then V[i]. -/
def Memory.writeChroma : Memory → Nat → Nat → List AccEntry → Memory
  | m, _, _, [] => m
  | m, u, v, e :: es => Memory.writeChroma ((m.write u e.u).write v e.v) (u + 1) (v + 1) es

/-- CVTUV (R131, R132): n = ACCN is the number of entries that hold a value; it does not read WIDTH. -/
def execCvtuv (s : State) : Result :=
  gate s <|
    if s.acc.length = 0 then raiseBy .accEmpty .cvtuv s
    else if ¬ s.dstInBounds s.udst.toNat s.acc.length then raiseBy .bounds .cvtuv s
    else if ¬ s.dstInBounds s.vdst.toNat s.acc.length then raiseBy .bounds .cvtuv s
    else if rangesOverlap s.udst.toNat s.vdst.toNat s.acc.length then raiseBy .overlap .cvtuv s
    else .next (s.setDst (s.dst.writeChroma s.udst.toNat s.vdst.toNat s.acc))

/-- The luma Sample of a pixel on the row path (R135); the alpha lane is not read (42_accumulate.md R118). -/
def Pixel.luma (p : Pixel) : Sample := BitVec.ofNat 8 (rgbToY p.r.toNat p.g.toNat p.b.toNat roundYRow)

/-- The WIDTH luma Samples of row k. -/
def State.lumaRow (s : State) (k : BitVec 1) : List Sample :=
  (List.range s.width.toNat).map (fun j => (s.rowPixel k j).luma)

/-- CVTY k (R135). The reads of SRC come before the writes of DST: the spaces are disjoint (20_memory.md R40). -/
def execCvty (k : BitVec 1) (s : State) : Result :=
  gate s <|
    if s.width.toNat = 0 then raiseBy .width (.cvty k) s
    else if ¬ s.srcInBounds (s.srcBase k) s.width.toNat then raiseBy .bounds (.cvty k) s
    else if ¬ s.dstInBounds (s.ydstBase k) s.width.toNat then raiseBy .bounds (.cvty k) s
    else .next (s.setDst (s.dst.writeRow (s.ydstBase k) (s.lumaRow k)))

end Sys2Proof.Machine
end

