-- ==== Sys2Proof/Machine/Dispatch.lean ====
section
/-! DEFINITION. exec: one arm per constructor of Instr, each one direct call of the instruction's meaning. -/

namespace Sys2Proof.Machine

def exec (i : Instr) (s : State) : Host.Outcome State Fault Refusal :=
  match i with
  | .set reg imm => Sys2Proof.Machine.execSet reg imm s
  | .reset => Sys2Proof.Machine.execReset s
  | .g2l => Sys2Proof.Machine.execG2l s
  | .l2g k => Sys2Proof.Machine.execL2g k s
  | .rgb2y => Sys2Proof.Machine.execRgb2y s
  | .rgb2u => Sys2Proof.Machine.execRgb2u s
  | .rgb2v => Sys2Proof.Machine.execRgb2v s
  | .accum => Sys2Proof.Machine.execAccum s
  | .accum1 => Sys2Proof.Machine.execAccum1 s
  | .accuma => Sys2Proof.Machine.execAccuma s
  | .cvtuv => Sys2Proof.Machine.execCvtuv s
  | .cvty k => Sys2Proof.Machine.execCvty k s

end Sys2Proof.Machine
end

