-- ==== Sys2Proof/Machine/Port.lean ====
section
/-! DEFINITION. The command port and the rest of the host interface (20_memory.md R57): what the block does with a
command word, and what each host action does and returns. -/

namespace Sys2Proof.Machine

/-- The block takes a command word (R57): a legal word is executed; in the run state an illegal word raises E_ILLEGAL
(30_encoding.md R67, R68), in the fault state it is discarded (60_exceptions.md R166). -/
def issue (w : Word) (s : State) : Result :=
  match decode w with
  | .ok i => exec i s
  | .error _ => gate s (.next (s.raise .illegal w))

/-- One host action (R57). An access to an index outside the space is refused by name: "never | the model gives the
host no such move". -/
def serve (a : HostAction) (s : State) : Result :=
  match a with
  | .command w => issue w s
  | .writeSrc i p => if i < s.cfg.srcSize then .next (s.setSrc (s.src.writePixel i p)) else .refused .hostAccessOutsideSpace
  | .readSrc i => if i < s.cfg.srcSize then .next s else .refused .hostAccessOutsideSpace
  | .writeDst i v => if i < s.cfg.dstSize then .next (s.setDst (s.dst.write i v)) else .refused .hostAccessOutsideSpace
  | .readDst i => if i < s.cfg.dstSize then .next s else .refused .hostAccessOutsideSpace
  | .readReg _ => .next s
  | .hardReset => .next s.doReset

/-- What a host action returns to the host, if it reads (R57, R20): a pixel as a word (R43), a Sample zero-extended, a
register through the read port. -/
def HostAction.reply (a : HostAction) (s : State) : Option Word :=
  match a with
  | .readSrc i => if i < s.cfg.srcSize then some (s.src.pixel i).word else none
  | .readDst i => if i < s.cfg.dstSize then some ((s.dst.read i).setWidth 32) else none
  | .readReg n => some (s.readPort n)
  | .command _ => none
  | .writeSrc _ _ => none
  | .writeDst _ _ => none
  | .hardReset => none

/-- The state with its oldest pending host action taken off the port. -/
def State.withPort (s : State) (rest : List HostAction) : State := { s with port := rest }

/-- Serve the oldest pending action; with none pending the block does nothing (log 4). -/
def servePort (s : State) : Result :=
  match s.port with
  | [] => .next s
  | a :: rest => serve a (s.withPort rest)

/-- The port with the command word of `w` in front, bits above `nbits` zero. -/
def State.withCommand (s : State) (nbits w : Nat) : State :=
  s.withPort (.command (BitVec.ofNat 32 (w % 2 ^ nbits)) :: s.port)

end Sys2Proof.Machine
end

