-- ==== Sys2Proof/Machine/Step.lean ====
section
/-! DEFINITION. One step: the model refuses a configuration that is not well formed (00_scope.md R6); otherwise the
oldest pending host action is served, a command to completion (20_memory.md R50). -/

namespace Sys2Proof.Machine

def step (s : State) : Host.Outcome State Fault Refusal :=
  if s.cfg.wf then servePort s else .refused .configNotWellFormed

/-- The block has no program counter and fetches nothing (10_state.md R12): the next instruction is the word in front
of the command port (log 4). -/
def State.withFetchWord (s : State) (nbits w : Nat) : State := s.withCommand nbits w

end Sys2Proof.Machine
end

