-- ==== Sys2Proof/Safety.lean ====
section
/-! DEFINITION. What counts as a good run (60_exceptions.md R176) and the invariant the machine keeps. -/

namespace Sys2Proof.Machine

/-- A run: "the execution of a finite list of command words from a start state" (60_exceptions.md R176). -/
def runWords (ws : List Word) (s : State) : Result :=
  Host.Core.run Sys2Proof.core ws.length (s.withPort (ws.map HostAction.command))

/-- "the end state is good when ERR = 0" (R176). -/
abbrev State.good (s : State) : Prop := s.running

/-- What every reachable state meets: the configuration is well formed (R6); the memories are canonical and list only
elements of their spaces (R24, R25, R40); WIDTH ≤ WMAX (R13, R81); at most ACC_MAX entries of ACC hold a value (R21),
each at most 65532 (R113); RES ≤ 65535 (R17); ERR is at most 7 (R160); in the run state ECMD reads 0 (R19). -/
structure State.Inv (s : State) : Prop where
  cfg_wf : s.cfg.wf = true
  src_wf : s.src.wf = true
  src_within : s.src.within (4 * s.cfg.srcSize) = true
  dst_wf : s.dst.wf = true
  dst_within : s.dst.within s.cfg.dstSize = true
  width_le : s.width.toNat ≤ s.cfg.wmax
  acc_length_le : s.acc.length ≤ s.cfg.accMax
  acc_lanes_le : ∀ e ∈ s.acc, e.r.toNat ≤ 65532 ∧ e.g.toNat ≤ 65532 ∧ e.b.toNat ≤ 65532
  res_le : s.res.toNat ≤ 65535
  status_le : s.status.toNat ≤ 7
  ecmd_run : s.status = 0#4 → s.ecmd = 0#32

end Sys2Proof.Machine
end

