-- ==== Sys2Proof/Certificates/Slice0/Obligations.lean ====
section
/-! DEFINITION. The statements for the provers. The formulas of the spec are written here a second time, over division
and remainder, so that a statement does not lean on the model's own arithmetic (Sys2Proof.Spec). Every statement holds
for every configuration it does not name and for every contents of SRC and DST (10_state.md R32). -/

namespace Sys2Proof.Spec

open Sys2Proof.Machine

/-- RgbToY (43_convert.md R120), `>> 16` as the floor of a division by 2^16. -/
def lumaOf (r g b rnd : Nat) : Nat := (rnd + 1048576 + (16839 * r + 33059 * g + 6420 * b)) / 65536

/-- clip8 (00_scope.md R8). -/
def saturate (v : Int) : Nat := (max 0 (min 255 v)).toNat

/-- The value RgbToU clips (R121); `/` rounds down for a positive divisor. -/
def uRaw (r g b rnd : Nat) : Int :=
  (-9719 * (r : Int) - 19081 * (g : Int) + 28800 * (b : Int) + (rnd : Int) + 33554432) / 262144

/-- The value RgbToV clips (R122). -/
def vRaw (r g b rnd : Nat) : Int :=
  (28800 * (r : Int) - 24116 * (g : Int) - 4684 * (b : Int) + (rnd : Int) + 33554432) / 262144

/-- RgbToU (R121). -/
def uOf (r g b rnd : Nat) : Nat := saturate (uRaw r g b rnd)

/-- RgbToV (R122). -/
def vOf (r g b rnd : Nat) : Nat := saturate (vRaw r g b rnd)

/-- The luma sum of R120 in 32-bit words. -/
def luma32 (r g b rnd : Nat) : BitVec 32 :=
  16839#32 * BitVec.ofNat 32 r + 33059#32 * BitVec.ofNat 32 g + 6420#32 * BitVec.ofNat 32 b + BitVec.ofNat 32 rnd +
    1048576#32

/-- The sum RgbToU shifts (R121) in 32-bit two's-complement words. -/
def u32 (r g b rnd : Nat) : BitVec 32 :=
  28800#32 * BitVec.ofNat 32 b - 9719#32 * BitVec.ofNat 32 r - 19081#32 * BitVec.ofNat 32 g + BitVec.ofNat 32 rnd +
    33554432#32

/-- The sum RgbToV shifts (R122) in 32-bit two's-complement words. -/
def v32 (r g b rnd : Nat) : BitVec 32 :=
  28800#32 * BitVec.ofNat 32 r - 24116#32 * BitVec.ofNat 32 g - 4684#32 * BitVec.ofNat 32 b + BitVec.ofNat 32 rnd +
    33554432#32

/-- G2L[v] (41_gamma.md R91). -/
def expand (c : Config) (v : Nat) : Nat := c.g2l.getD v 0

/-- The interpolation of R93 between two table entries, S = 2^(TAB_FIX+2). -/
def between (fix v0 v1 x : Nat) : Nat := (v1 * x + v0 * (2 ^ (fix + 2) - x) + 2 ^ (fix - 1)) / 2 ^ fix

/-- LinearToGamma(base, shift) (R92, R93). -/
def recompress (c : Config) (base shift : Nat) : Nat :=
  let v := base * 2 ^ shift
  between c.tabFix (c.l2g.getD (v / 2 ^ (c.tabFix + 2)) 0) (c.l2g.getD (v / 2 ^ (c.tabFix + 2) + 1) 0)
    (v % 2 ^ (c.tabFix + 2))

/-- e(c) = LinearToGamma(4·G2L[c], 0) (R99). -/
def uniformEntry (c : Config) (v : Nat) : Nat := recompress c (4 * expand c v) 0

/-- Lane `lane` (0 = r, 1 = g, 2 = b) of `SRC[a]`: byte 4a + lane (20_memory.md R43). -/
def srcLane (s : State) (lane a : Nat) : Nat := (s.src.read (4 * a + lane)).toNat

/-- Lane `lane` of ACC[i] after ACCUM (42_accumulate.md R111): four terms when column 2i + 1 exists, else the two-term
tail with shift 1. -/
def accLane (s : State) (lane i : Nat) : Nat :=
  let g (base j : Nat) := expand s.cfg (srcLane s lane (base + j))
  if 2 * i + 1 < s.width.toNat then
    recompress s.cfg (g s.src0.toNat (2 * i) + g s.src0.toNat (2 * i + 1) + g s.src1.toNat (2 * i)
      + g s.src1.toNat (2 * i + 1)) 0
  else recompress s.cfg (g s.src0.toNat (2 * i) + g s.src1.toNat (2 * i)) 1

/-- ACC[i] after ACCUM (R111). -/
def accEntry (s : State) (i : Nat) : AccEntry :=
  ⟨BitVec.ofNat 16 (accLane s 0 i), BitVec.ofNat 16 (accLane s 1 i), BitVec.ofNat 16 (accLane s 2 i)⟩

/-- The luma of `SRC[a]` on the row path (43_convert.md R135). -/
def rowLuma (s : State) (a : Nat) : Nat := lumaOf (srcLane s 0 a) (srcLane s 1 a) (srcLane s 2 a) 32768

/-- Fault entry (60_exceptions.md R165): STATUS and ECMD, nothing else. -/
def faulted (s : State) (code : BitVec 4) (w : Word) : State := { s with status := code, ecmd := w }

/-- The word of SET reg, imm (30_encoding.md R62): 000001 ‖ reg ‖ imm. -/
def setWord (reg : BitVec 4) (imm : BitVec 22) : Word := BitVec.ofNat 32 (2 ^ 26 + reg.toNat * 2 ^ 22 + imm.toNat)

/-- The state reset leaves (10_state.md R30): every register 0, no ACC entry, memories and configuration kept. -/
def cleared (s : State) : State :=
  { s with
    width := 0, src0 := 0, src1 := 0, ydst0 := 0, ydst1 := 0, udst := 0, vdst := 0, a0 := 0, a1 := 0, a2 := 0, rnd := 0,
    res := 0, status := 0, ecmd := 0, acc := [] }

/-- An address inside [base, base + n). -/
def inRange (base n a : Nat) : Prop := base ≤ a ∧ a < base + n

/-- Two ranges of lengths n and k share no element. -/
def apart (x n y k : Nat) : Prop := x + n ≤ y ∨ y + k ≤ x

end Sys2Proof.Spec

open Sys2Proof Sys2Proof.Machine Sys2Proof.Spec

/-! Encoding. -/

/-- 30_encoding.md R73, every worked encoding and every illegal word, and one word for each further command of R65. -/
def Obligations.SpecWordsDecodeToTheirCommands : Prop :=
  decode 0x04000004#32 = .ok (.set 0#4 4#22) ∧ decode 0x06820000#32 = .ok (.set 10#4 131072#22) ∧
  decode 0x05C000FF#32 = .ok (.set 7#4 255#22) ∧ decode 0x28000000#32 = .ok .rgb2y ∧
  decode 0x24000001#32 = .ok (.l2g 1#1) ∧ decode 0x40000000#32 = .ok .accum ∧ decode 0x50000000#32 = .ok .cvtuv ∧
  decode 0x54000001#32 = .ok (.cvty 1#1) ∧ decode 0x08000000#32 = .ok .reset ∧
  decode 0x00000000#32 = .error (.unknownOpcode 0#6) ∧ decode 0xFFFFFFFF#32 = .error (.unknownOpcode 0x3F#6) ∧
  decode 0x40000001#32 = .error .mustBeZeroSet ∧ decode 0x54000002#32 = .error .mustBeZeroSet ∧
  decode 0x07C00000#32 = .error .registerFifteen ∧ decode 0x0C000000#32 = .error (.unknownOpcode 3#6) ∧
  decode 0x20000000#32 = .ok .g2l ∧ decode 0x2C000000#32 = .ok .rgb2u ∧ decode 0x30000000#32 = .ok .rgb2v ∧
  decode 0x44000000#32 = .ok .accum1 ∧ decode 0x48000000#32 = .ok .accuma

/-- No bit of an encoding is dropped (R61 to R64). -/
def Obligations.DecodeOfEncodeIsTheInstruction : Prop :=
  ∀ i : Instr, i.wf = true → decode (encode i) = .ok i

/-- Each legal word is the one word of its command (R65). -/
def Obligations.EncodeOfDecodeIsTheWord : Prop :=
  ∀ (w : Word) (i : Instr), decode w = .ok i → encode i = w ∧ i.wf = true

/-- R65, R66: a word decodes to a command of a row exactly when (w & mask) = match, SET with register 15 (R68) apart, and
no word matches two rows. -/
def Obligations.OpcodeMapDecidesWhatDecodes : Prop :=
  (∀ (w : Word) (i : Instr), decode w = .ok i → i.row ∈ opcodeTable ∧ i.row.hit w = true) ∧
  (∀ (w : Word), ∀ r ∈ opcodeTable, r.hit w = true → w &&& 0xFFC00000#32 ≠ 0x07C00000#32 →
    ∃ i, decode w = .ok i ∧ i.row = r) ∧
  (∀ (w : Word), ∀ r ∈ opcodeTable, ∀ q ∈ opcodeTable, r.hit w = true → q.hit w = true → r = q)

/-! The step. -/

/-- When the word in front of the port decodes to i, the step is exec of i with the word taken off the port; with
`withFetchWord` the step is exec of i at the state itself. -/
def Obligations.StepRunsTheDecodedCommand : Prop :=
  ∀ (s : State) (i : Instr), s.cfg.wf = true →
    (∀ w rest, s.port = .command w :: rest → decode w = .ok i → step s = exec i { s with port := rest }) ∧
    (∀ n : Nat, decode (BitVec.ofNat 32 n) = .ok i → step (s.withFetchWord 32 n) = exec i s)

/-- R67, R68, R70. -/
def Obligations.IllegalWordRaisesEIllegal : Prop :=
  ∀ (s : State), s.cfg.wf = true → s.status = 0#4 →
    (∀ w rest, s.port = .command w :: rest →
      ((∀ r ∈ opcodeTable, r.hit w = false) ∨ w &&& 0xFFC00000#32 = 0x07C00000#32) →
      step s = .next { s with port := rest, status := 1#4, ecmd := w }) ∧
    (∀ w rest, s.port = .command w :: rest → ∀ reg ∈ [11#4, 12#4, 13#4, 14#4], ∀ imm, w = setWord reg imm →
      decode w = .ok (.set reg imm) ∧ step s = .next { s with port := rest, status := 2#4, ecmd := w })

/-- 60_exceptions.md R166: every word but 0x08000000 is discarded, and the host's accesses work as in the run state. -/
def Obligations.FaultStateDiscardsEveryWordButReset : Prop :=
  ∀ (s : State) (a : HostAction) (rest : List HostAction), s.cfg.wf = true → s.status ≠ 0#4 → s.port = a :: rest →
    (∀ w, a = .command w → w ≠ 0x08000000#32 → step s = .next { s with port := rest }) ∧
    ((∀ w, a ≠ .command w) → a ≠ .hardReset → ∀ t, step { s with status := 0#4 } = .next t →
      step s = .next { t with status := s.status }) ∧
    (a ≠ .readReg 12#4 → a.reply s = a.reply { s with status := 0#4 }) ∧
    (a = .readReg 12#4 → a.reply s = some (BitVec.ofNat 32 s.status.toNat))

/-- 60_exceptions.md R175: every command word has a successor in every state. -/
def Obligations.EveryCommandWordHasASuccessor : Prop :=
  ∀ (s : State) (w : Word) (rest : List HostAction), s.cfg.wf = true → s.port = .command w :: rest →
    ∃ t, step s = .next t

/-- 00_scope.md R6: no step from a configuration that breaks WF1, WF2 or WF3. -/
def Obligations.IllFormedConfigIsRefused : Prop :=
  ∀ s : State,
    (s.cfg.tabFix < 1 ∨ 14 < s.cfg.tabFix ∨
      (∃ e ∈ s.cfg.g2l, s.cfg.tabSize ≤ 4 * e / 2 ^ (s.cfg.tabFix + 2)) ∨
      (∃ e ∈ s.cfg.g2l, 65535 < e) ∨ (∃ e ∈ s.cfg.l2g, 16383 < e)) →
    step s = .refused .configNotWellFormed

/-- The model's own choice (log 4): with nothing pending a step changes nothing. -/
def Obligations.EmptyPortStepChangesNothing : Prop :=
  ∀ s : State, s.cfg.wf = true → s.port = [] → step s = .next s

/-! Control. -/

/-- 40_control.md R80, R81: the checks in order and the register written. The four faulting cases and the eleven writes
exclude each other. -/
def Obligations.SetFollowsItsPseudocode : Prop :=
  ∀ (reg : BitVec 4) (imm : BitVec 22) (s : State), s.cfg.wf = true → s.status = 0#4 →
    (reg = 15#4 → exec (.set reg imm) s = .next (faulted s 1#4 (setWord reg imm))) ∧
    (reg = 11#4 ∨ reg = 12#4 ∨ reg = 13#4 ∨ reg = 14#4 →
      exec (.set reg imm) s = .next (faulted s 2#4 (setWord reg imm))) ∧
    (reg = 0#4 ∧ (imm.toNat = 0 ∨ s.cfg.wmax < imm.toNat) →
      exec (.set reg imm) s = .next (faulted s 3#4 (setWord reg imm))) ∧
    (reg = 10#4 ∧ 2 ^ 18 ≤ imm.toNat → exec (.set reg imm) s = .next (faulted s 2#4 (setWord reg imm))) ∧
    (reg = 0#4 ∧ imm.toNat ≠ 0 ∧ imm.toNat ≤ s.cfg.wmax →
      ∃ v : BitVec 14, v.toNat = imm.toNat ∧ exec (.set reg imm) s = .next { s with width := v }) ∧
    (reg = 10#4 ∧ imm.toNat < 2 ^ 18 →
      ∃ v : BitVec 18, v.toNat = imm.toNat ∧ exec (.set reg imm) s = .next { s with rnd := v }) ∧
    (reg = 1#4 → exec (.set reg imm) s = .next { s with src0 := imm }) ∧
    (reg = 2#4 → exec (.set reg imm) s = .next { s with src1 := imm }) ∧
    (reg = 3#4 → exec (.set reg imm) s = .next { s with ydst0 := imm }) ∧
    (reg = 4#4 → exec (.set reg imm) s = .next { s with ydst1 := imm }) ∧
    (reg = 5#4 → exec (.set reg imm) s = .next { s with udst := imm }) ∧
    (reg = 6#4 → exec (.set reg imm) s = .next { s with vdst := imm }) ∧
    (reg = 7#4 → exec (.set reg imm) s = .next { s with a0 := imm }) ∧
    (reg = 8#4 → exec (.set reg imm) s = .next { s with a1 := imm }) ∧
    (reg = 9#4 → exec (.set reg imm) s = .next { s with a2 := imm })

/-- R83: RESET in the run and the fault state alike; a word with op 0x02 and another bit set is not RESET: it raises
E_ILLEGAL in the run state and is discarded in the fault state. -/
def Obligations.ResetCommandClearsTheBlock : Prop :=
  decode 0x08000000#32 = .ok .reset ∧
  (∀ w : Word, w &&& 0xFC000000#32 = 0x08000000#32 → w ≠ 0x08000000#32 →
    ∀ (s : State) (rest : List HostAction), s.cfg.wf = true → s.port = .command w :: rest →
      (s.status = 0#4 → step s = .next { s with port := rest, status := 1#4, ecmd := w }) ∧
      (s.status ≠ 0#4 → step s = .next { s with port := rest })) ∧
  ∀ s : State, exec .reset s = .next (cleared s)

/-- 10_state.md R30, 70_reset_and_hazards.md R190: hardware reset and the RESET word are the same event. -/
def Obligations.BothResetsLeaveTheResetState : Prop :=
  ∀ (s : State) (rest : List HostAction), s.cfg.wf = true →
    (s.port = .hardReset :: rest ∨ s.port = .command 0x08000000#32 :: rest) →
    step s = .next { cleared s with port := rest }

/-- 10_state.md R31, the registers and ACC (the configuration and the memories of State.reset are the model's choices,
log 2 and log 5, and are not stated). -/
def Obligations.ResetRegistersAreZero : Prop :=
  cleared State.reset = State.reset ∧ (∀ n : BitVec 4, State.reset.readPort n = 0#32) ∧ State.reset.accn = 0#14

/-! Gamma. -/

/-- 41_gamma.md R95, with its REF examples. -/
def Obligations.G2lFollowsItsRule : Prop :=
  decode 0x20000000#32 = .ok .g2l ∧
  ∀ s : State, s.cfg.wf = true → s.status = 0#4 →
    (255 < s.a0.toNat → exec .g2l s = .next (faulted s 2#4 0x20000000#32)) ∧
    (s.a0.toNat ≤ 255 → ∃ e, s.cfg.g2l[s.a0.toNat]? = some e ∧
      ∃ v : BitVec 22, v.toNat = e ∧ exec .g2l s = .next { s with res := v }) ∧
    (s.cfg.g2l = Config.refG2l →
      (s.a0 = 128#22 → exec .g2l s = .next { s with res := 2359#22 }) ∧
      (s.a0 = 255#22 → exec .g2l s = .next { s with res := 4095#22 }) ∧
      (s.a0 = 0#22 → exec .g2l s = .next { s with res := 0#22 }))

/-- R96 with R92 and R93: the position check, the two neighbouring entries, the interpolation. -/
def Obligations.L2gFollowsItsRule : Prop :=
  decode 0x24000000#32 = .ok (.l2g 0#1) ∧ decode 0x24000001#32 = .ok (.l2g 1#1) ∧
  ∀ (s : State) (k : BitVec 1), s.cfg.wf = true → s.status = 0#4 →
    (s.cfg.tabSize ≤ s.a0.toNat * 2 ^ k.toNat / 2 ^ (s.cfg.tabFix + 2) →
      exec (.l2g k) s = .next (faulted s 2#4 (BitVec.ofNat 32 (0x24000000 + k.toNat)))) ∧
    (s.a0.toNat * 2 ^ k.toNat / 2 ^ (s.cfg.tabFix + 2) < s.cfg.tabSize →
      ∃ v0 v1, s.cfg.l2g[s.a0.toNat * 2 ^ k.toNat / 2 ^ (s.cfg.tabFix + 2)]? = some v0 ∧
        s.cfg.l2g[s.a0.toNat * 2 ^ k.toNat / 2 ^ (s.cfg.tabFix + 2) + 1]? = some v1 ∧
        ∃ v : BitVec 22,
          v.toNat = between s.cfg.tabFix v0 v1 (s.a0.toNat * 2 ^ k.toNat % 2 ^ (s.cfg.tabFix + 2)) ∧
          exec (.l2g k) s = .next { s with res := v })

/-- R97 (a) to (d), of the model's LinearToGamma, over any table. Its formula and shift are the spec's own decision
(R92, R93; log 10). -/
def Obligations.LinearToGammaProperties : Prop :=
  ∀ c : Config, 1 ≤ c.tabFix →
    (∀ b k, b * 2 ^ k % 2 ^ (c.tabFix + 2) = 0 →
      linearToGamma c b k = 4 * c.l2g.getD (b * 2 ^ k / 2 ^ (c.tabFix + 2)) 0) ∧
    (∀ b, linearToGamma c (2 * b) 0 = linearToGamma c b 1) ∧
    ((∀ m n, m ≤ n → n ≤ c.tabSize → c.l2g.getD m 0 ≤ c.l2g.getD n 0) →
      ∀ b k b' k', b * 2 ^ k ≤ b' * 2 ^ k' → b' * 2 ^ k' / 2 ^ (c.tabFix + 2) < c.tabSize →
        linearToGamma c b k ≤ linearToGamma c b' k') ∧
    (∀ b k, linearToGamma c b k ≤ 4 * max (c.l2g.getD (b * 2 ^ k / 2 ^ (c.tabFix + 2)) 0)
      (c.l2g.getD (b * 2 ^ k / 2 ^ (c.tabFix + 2) + 1) 0))

/-- R98: a uniform 2×2 block and a uniform tail of the same colour give the same entry, e(c) in each lane. It rests on
LinearToGamma's shift and formula, which the spec marks as its own decision (R92, R93; log 10). -/
def Obligations.UniformBlockAndTailAgree : Prop :=
  ∀ (c : Config) (p : Pixel), blockEntry c p p p p = tailEntry c p p ∧
    blockEntry c p p p p =
      ⟨BitVec.ofNat 16 (uniformEntry c p.r.toNat), BitVec.ofNat 16 (uniformEntry c p.g.toNat),
        BitVec.ofNat 16 (uniformEntry c p.b.toNat)⟩

/-- R99 and 90_conflicts.md C6, of the model's functions, with e(v) = LinearToGamma(4·G2L[v], 0): LIN is box-exact; REF
is not, for 152 Samples and by at most 2, and its first counterexample is (0, 0, 1), whose uniform block gives U = 129
where the single pixel gives 128. LinearToGamma's formula is the spec's own decision (log 10), and REF's entries are the
spec's general knowledge (log 2). -/
def Obligations.LinIsBoxExactAndRefIsNot : Prop :=
  let e (c : Config) (v : Nat) : Nat := linearToGamma c (4 * gammaToLinear c v) 0
  (∀ v : Sample, e Config.lin v.toNat = 4 * v.toNat ∧ (blockLane Config.lin v v v v).toNat = 4 * v.toNat) ∧
  e Config.ref 0 = 0 ∧ e Config.ref 1 = 5 ∧ e Config.ref 3 = 11 ∧ e Config.ref 114 = 457 ∧
  ((List.range 256).filter (fun v => e Config.ref v != 4 * v)).length = 152 ∧
  (∀ v : Sample, e Config.ref v.toNat ≤ 4 * v.toNat + 2 ∧ 4 * v.toNat ≤ e Config.ref v.toNat + 2) ∧
  rgbToU (e Config.ref 0) (e Config.ref 0) (e Config.ref 1) 131072 = 129 ∧ rgbToU (4 * 0) (4 * 0) (4 * 1) 131072 = 128 ∧
  ∀ a : Sample, (blockEntry Config.ref ⟨0, 0, 1, a⟩ ⟨0, 0, 1, a⟩ ⟨0, 0, 1, a⟩ ⟨0, 0, 1, a⟩).u = 129#8

/-! The colour matrix. -/

/-- 43_convert.md R127 with R120. -/
def Obligations.Rgb2yFollowsItsRule : Prop :=
  decode 0x28000000#32 = .ok .rgb2y ∧
  ∀ s : State, s.status = 0#4 →
    (255 < s.a0.toNat ∨ 255 < s.a1.toNat ∨ 255 < s.a2.toNat →
      exec .rgb2y s = .next (faulted s 2#4 0x28000000#32)) ∧
    (s.a0.toNat ≤ 255 ∧ s.a1.toNat ≤ 255 ∧ s.a2.toNat ≤ 255 →
      ∃ v : BitVec 22, v.toNat = lumaOf s.a0.toNat s.a1.toNat s.a2.toNat s.rnd.toNat ∧
        exec .rgb2y s = .next { s with res := v })

/-- R128 with R121 and R123. -/
def Obligations.Rgb2uFollowsItsRule : Prop :=
  decode 0x2C000000#32 = .ok .rgb2u ∧
  ∀ s : State, s.status = 0#4 →
    (65535 < s.a0.toNat ∨ 65535 < s.a1.toNat ∨ 65535 < s.a2.toNat →
      exec .rgb2u s = .next (faulted s 2#4 0x2C000000#32)) ∧
    (s.a0.toNat ≤ 65535 ∧ s.a1.toNat ≤ 65535 ∧ s.a2.toNat ≤ 65535 →
      ∃ v : BitVec 22, v.toNat = uOf s.a0.toNat s.a1.toNat s.a2.toNat s.rnd.toNat ∧
        exec .rgb2u s = .next { s with res := v })

/-- R129 with R122 and R123. -/
def Obligations.Rgb2vFollowsItsRule : Prop :=
  decode 0x30000000#32 = .ok .rgb2v ∧
  ∀ s : State, s.status = 0#4 →
    (65535 < s.a0.toNat ∨ 65535 < s.a1.toNat ∨ 65535 < s.a2.toNat →
      exec .rgb2v s = .next (faulted s 2#4 0x30000000#32)) ∧
    (s.a0.toNat ≤ 65535 ∧ s.a1.toNat ≤ 65535 ∧ s.a2.toNat ≤ 65535 →
      ∃ v : BitVec 22, v.toNat = vOf s.a0.toNat s.a1.toNat s.a2.toNat s.rnd.toNat ∧
        exec .rgb2v s = .next { s with res := v })

/-- R125, of the model's RgbToY. -/
def Obligations.LumaStaysInRange : Prop :=
  (∀ r g b rnd, r ≤ 255 → g ≤ 255 → b ≤ 255 → rnd < 2 ^ 18 → 16 ≤ rgbToY r g b rnd ∧ rgbToY r g b rnd ≤ 239) ∧
  (∀ r g b, r ≤ 255 → g ≤ 255 → b ≤ 255 → 16 ≤ rgbToY r g b 32768 ∧ rgbToY r g b 32768 ≤ 235) ∧
  rgbToY 255 255 255 32768 = 235 ∧ rgbToY 255 255 255 1367550 = 256

/-- R126, of the model's RgbToU and RgbToV: clip8 does not act up to 1020, both are Samples, and grey gives 128. -/
def Obligations.ChromaRangeAndGrey : Prop :=
  (∀ r g b, r ≤ 1020 → g ≤ 1020 → b ≤ 1020 →
    16 ≤ rgbToU r g b 131072 ∧ rgbToU r g b 131072 ≤ 240 ∧ (rgbToU r g b 131072 : Int) = uRaw r g b 131072 ∧
    16 ≤ rgbToV r g b 131072 ∧ rgbToV r g b 131072 ≤ 240 ∧ (rgbToV r g b 131072 : Int) = vRaw r g b 131072) ∧
  (∀ r g b rnd, rgbToU r g b rnd ≤ 255 ∧ rgbToV r g b rnd ≤ 255) ∧
  (∀ r rnd, rnd < 2 ^ 18 → rgbToU r r r rnd = 128 ∧ rgbToV r r r rnd = 128) ∧
  rgbToU 0 0 1020 131072 = 240 ∧ rgbToU 1020 1020 0 131072 = 16 ∧
  vRaw 1161 0 0 131072 = 256 ∧ rgbToV 1161 0 0 131072 = 255 ∧ uRaw 0 1766 0 131072 = -1 ∧ rgbToU 0 1766 0 131072 = 0

/-- R124: in the domains of R120 to R122 every sum fits a signed 32-bit word, so the model's three functions, which
compute in unbounded integers, give what 32-bit words with an arithmetic right shift give. -/
def Obligations.MatrixSumsFitThirtyTwoBits : Prop :=
  (∀ r g b rnd : Nat, r ≤ 255 → g ≤ 255 → b ≤ 255 → rnd < 2 ^ 18 →
    (rgbToY r g b rnd : Int) = ((luma32 r g b rnd).sshiftRight 16).toInt ∧
    0 ≤ (luma32 r g b rnd).toInt ∧ (luma32 r g b rnd).toInt ≤ 15671809) ∧
  (∀ r g b rnd : Nat, r ≤ 65535 → g ≤ 65535 → b ≤ 65535 → rnd < 2 ^ 18 →
    rgbToU r g b rnd = saturate ((u32 r g b rnd).sshiftRight 18).toInt ∧
    rgbToV r g b rnd = saturate ((v32 r g b rnd).sshiftRight 18).toInt ∧
    -1853853568 ≤ (u32 r g b rnd).toInt ∧ (u32 r g b rnd).toInt ≤ 1921224575 ∧
    -1853853568 ≤ (v32 r g b rnd).toInt ∧ (v32 r g b rnd).toInt ≤ 1921224575)

/-! The accumulator. -/

/-- 42_accumulate.md R111, R114: the faults in order, and every entry of ACC with ACCN. -/
def Obligations.AccumFollowsItsRule : Prop :=
  decode 0x40000000#32 = .ok .accum ∧
  ∀ s : State, s.status = 0#4 →
    (s.width.toNat = 0 → exec .accum s = .next (faulted s 3#4 0x40000000#32)) ∧
    (s.width.toNat ≠ 0 ∧
      (s.cfg.srcSize < s.src0.toNat + s.width.toNat ∨ s.cfg.srcSize < s.src1.toNat + s.width.toNat) →
      exec .accum s = .next (faulted s 4#4 0x40000000#32)) ∧
    (s.width.toNat ≠ 0 ∧ s.src0.toNat + s.width.toNat ≤ s.cfg.srcSize ∧
      s.src1.toNat + s.width.toNat ≤ s.cfg.srcSize →
      ∃ es, exec .accum s = .next { s with acc := es } ∧ es.length = (s.width.toNat + 1) / 2 ∧
        (∀ i, i < (s.width.toNat + 1) / 2 → es[i]? = some (accEntry s i)) ∧
        State.accn { s with acc := es } = BitVec.ofNat 14 ((s.width.toNat + 1) / 2) ∧
        (s.width.toNat + 1) / 2 < 2 ^ 14)

/-- R113 with 41_gamma.md R94: under a well-formed configuration every table position is inside the table and every
16-bit lane holds LinearToGamma's value exactly. Shift and formula of LinearToGamma, and with them the bound 65532, are the
spec's own decision (R92, R93; log 10). -/
def Obligations.AccumulatorLanesAreNeverTruncated : Prop :=
  ∀ (c : Config), c.wf = true → ∀ p q r t : Sample,
    (expand c p.toNat + expand c q.toNat + expand c r.toNat + expand c t.toNat) / 2 ^ (c.tabFix + 2) < c.tabSize ∧
    (expand c p.toNat + expand c q.toNat) * 2 / 2 ^ (c.tabFix + 2) < c.tabSize ∧
    (blockLane c p q r t).toNat =
      recompress c (expand c p.toNat + expand c q.toNat + expand c r.toNat + expand c t.toNat) 0 ∧
    (tailLane c p q).toNat = recompress c (expand c p.toNat + expand c q.toNat) 1 ∧
    (blockLane c p q r t).toNat ≤ 65532 ∧ (tailLane c p q).toNat ≤ 65532

/-- R115 (c) and (e): a second ACCUM with nothing changed changes nothing, whether the first completed or faulted. -/
def Obligations.AccumTwiceIsAccumOnce : Prop :=
  ∀ s t : State, exec .accum s = .next t → exec .accum t = .next t

/-- R116, R117. -/
def Obligations.Accum1AndAccumaRaiseUnimpl : Prop :=
  decode 0x44000000#32 = .ok .accum1 ∧ decode 0x48000000#32 = .ok .accuma ∧
  ∀ s : State,
    (s.status = 0#4 → exec .accum1 s = .next (faulted s 7#4 0x44000000#32) ∧
      exec .accuma s = .next (faulted s 7#4 0x48000000#32)) ∧
    (s.status ≠ 0#4 → exec .accum1 s = .next s ∧ exec .accuma s = .next s)

/-- R118: two states whose SRC differ only in alpha lanes are taken to states that differ in the same way, by every
command. -/
def Obligations.AlphaLaneIsNeverRead : Prop :=
  ∀ (i : Instr) (s : State) (src' : Memory),
    (∀ a lane, lane < 3 → src'.read (4 * a + lane) = s.src.read (4 * a + lane)) →
    ∃ t, exec i s = .next t ∧ exec i { s with src := src' } = .next { t with src := src' }

/-- 10_state.md R11, R21: ACCN reads the number of entries that hold a value. -/
def Obligations.AccnCountsTheEntries : Prop :=
  ∀ s : State, s.cfg.wf = true → s.acc.length ≤ (s.cfg.wmax + 1) / 2 →
    s.accn.toNat = s.acc.length ∧ s.readPort 13#4 = BitVec.ofNat 32 s.acc.length

/-! Row conversion. n = ACCN is the number of entries `acc` holds (AccnCountsTheEntries). -/

/-- 43_convert.md R131, R132, R130. -/
def Obligations.CvtuvFollowsItsRule : Prop :=
  decode 0x50000000#32 = .ok .cvtuv ∧
  ∀ s : State, s.status = 0#4 → s.dst.wf = true → ∀ n, s.acc.length = n →
    (n = 0 → exec .cvtuv s = .next (faulted s 6#4 0x50000000#32)) ∧
    (n ≠ 0 ∧ (s.cfg.dstSize < s.udst.toNat + n ∨ s.cfg.dstSize < s.vdst.toNat + n) →
      exec .cvtuv s = .next (faulted s 4#4 0x50000000#32)) ∧
    (n ≠ 0 ∧ s.udst.toNat + n ≤ s.cfg.dstSize ∧ s.vdst.toNat + n ≤ s.cfg.dstSize ∧
      ¬ apart s.udst.toNat n s.vdst.toNat n → exec .cvtuv s = .next (faulted s 5#4 0x50000000#32)) ∧
    (n ≠ 0 ∧ s.udst.toNat + n ≤ s.cfg.dstSize ∧ s.vdst.toNat + n ≤ s.cfg.dstSize ∧
      apart s.udst.toNat n s.vdst.toNat n →
      ∃ m : Memory, exec .cvtuv s = .next { s with dst := m } ∧ m.wf = true ∧
        (∀ i e, s.acc[i]? = some e →
          (m.read (s.udst.toNat + i)).toNat = uOf e.r.toNat e.g.toNat e.b.toNat 131072 ∧
          (m.read (s.vdst.toNat + i)).toNat = vOf e.r.toNat e.g.toNat e.b.toNat 131072) ∧
        (∀ a, ¬ inRange s.udst.toNat n a → ¬ inRange s.vdst.toNat n a → m.read a = s.dst.read a))

/-- 43_convert.md R135, R125: `sb` and `db` are SRC0 and YDST0 for k = 0, SRC1 and YDST1 for k = 1. -/
def Obligations.CvtyFollowsItsRule : Prop :=
  decode 0x54000000#32 = .ok (.cvty 0#1) ∧ decode 0x54000001#32 = .ok (.cvty 1#1) ∧
  ∀ (s : State) (k : BitVec 1) (sb db : Nat), s.status = 0#4 → s.dst.wf = true →
    (k = 0#1 ∧ sb = s.src0.toNat ∧ db = s.ydst0.toNat ∨ k = 1#1 ∧ sb = s.src1.toNat ∧ db = s.ydst1.toNat) →
    (s.width.toNat = 0 → exec (.cvty k) s = .next (faulted s 3#4 (BitVec.ofNat 32 (0x54000000 + k.toNat)))) ∧
    (s.width.toNat ≠ 0 ∧ (s.cfg.srcSize < sb + s.width.toNat ∨ s.cfg.dstSize < db + s.width.toNat) →
      exec (.cvty k) s = .next (faulted s 4#4 (BitVec.ofNat 32 (0x54000000 + k.toNat)))) ∧
    (s.width.toNat ≠ 0 ∧ sb + s.width.toNat ≤ s.cfg.srcSize ∧ db + s.width.toNat ≤ s.cfg.dstSize →
      ∃ m : Memory, exec (.cvty k) s = .next { s with dst := m } ∧ m.wf = true ∧
        (∀ j, j < s.width.toNat → (m.read (db + j)).toNat = rowLuma s (sb + j) ∧
          16 ≤ rowLuma s (sb + j) ∧ rowLuma s (sb + j) ≤ 235) ∧
        (∀ a, ¬ inRange db s.width.toNat a → m.read a = s.dst.read a))

/-- 70_reset_and_hazards.md R197: CVTUV does not depend on WIDTH, SRC0 or SRC1, and no SET changes ACC or ACCN. -/
def Obligations.CvtuvUsesAccnNotWidth : Prop :=
  (∀ (s t : State) (w : BitVec 14) (x y : BitVec 22), exec .cvtuv s = .next t →
    exec .cvtuv { s with width := w, src0 := x, src1 := y } = .next { t with width := w, src0 := x, src1 := y }) ∧
  (∀ (s t : State) (reg : BitVec 4) (imm : BitVec 22), exec (.set reg imm) s = .next t →
    t.acc = s.acc ∧ t.accn = s.accn)

/-- 43_convert.md R135, 30_encoding.md R72: CVTY may come before or after ACCUM. -/
def Obligations.CvtyCommutesWithAccum : Prop :=
  ∀ (k : BitVec 1) (s t u : State), exec .accum s = .next t → t.status = 0#4 → exec (.cvty k) t = .next u →
    u.status = 0#4 → ∃ t', exec (.cvty k) s = .next t' ∧ exec .accum t' = .next u

/-- 43_convert.md R136 with 41_gamma.md R99: the chroma box filter, from ACCUM through CVTUV, for a macro-pixel i all of
whose pixels have one colour, full block or tail. Box-exactness is a hypothesis of its last clause only. The formula
behind e(c) is LinearToGamma's, which the spec marks as its own decision (log 10). -/
def Obligations.UniformMacroPixelBoxFilter : Prop :=
  ∀ (s : State) (i n : Nat) (r g b : Sample), s.cfg.wf = true → s.dst.wf = true → s.status = 0#4 →
    n = (s.width.toNat + 1) / 2 → i < n →
    (∀ base, base = s.src0.toNat ∨ base = s.src1.toNat → ∀ j, j < s.width.toNat → j / 2 = i →
      srcLane s 0 (base + j) = r.toNat ∧ srcLane s 1 (base + j) = g.toNat ∧ srcLane s 2 (base + j) = b.toNat) →
    s.src0.toNat + s.width.toNat ≤ s.cfg.srcSize → s.src1.toNat + s.width.toNat ≤ s.cfg.srcSize →
    s.udst.toNat + n ≤ s.cfg.dstSize → s.vdst.toNat + n ≤ s.cfg.dstSize → apart s.udst.toNat n s.vdst.toNat n →
    ∃ t t', exec .accum s = .next t ∧ exec .cvtuv t = .next t' ∧
      (t'.dst.read (s.udst.toNat + i)).toNat =
        uOf (uniformEntry s.cfg r.toNat) (uniformEntry s.cfg g.toNat) (uniformEntry s.cfg b.toNat) 131072 ∧
      (t'.dst.read (s.vdst.toNat + i)).toNat =
        vOf (uniformEntry s.cfg r.toNat) (uniformEntry s.cfg g.toNat) (uniformEntry s.cfg b.toNat) 131072 ∧
      (r = g ∧ g = b → t'.dst.read (s.udst.toNat + i) = 128#8 ∧ t'.dst.read (s.vdst.toNat + i) = 128#8) ∧
      ((∀ c : Sample, uniformEntry s.cfg c.toNat = 4 * c.toNat) →
        (t'.dst.read (s.udst.toNat + i)).toNat = uOf (4 * r.toNat) (4 * g.toNat) (4 * b.toNat) 131072 ∧
        (t'.dst.read (s.vdst.toNat + i)).toNat = vOf (4 * r.toNat) (4 * g.toNat) (4 * b.toNat) 131072)

/-- 43_convert.md R137, 30_encoding.md R72: CVTPAIR from a configured run state completes and leaves the luma of both
rows and the chroma of the pair, and every other DST element as it was. The chroma rests on LinearToGamma's formula
(log 10) and the luma on the row bias 32768 (log 11), both of which the spec marks as its own decisions. -/
def Obligations.CvtPairConvertsTheRowPair : Prop :=
  ∀ (s : State) (w n : Nat), s.cfg.wf = true → s.dst.wf = true → s.status = 0#4 → w = s.width.toNat → w ≠ 0 →
    n = (w + 1) / 2 →
    s.src0.toNat + w ≤ s.cfg.srcSize → s.src1.toNat + w ≤ s.cfg.srcSize →
    s.ydst0.toNat + w ≤ s.cfg.dstSize → s.ydst1.toNat + w ≤ s.cfg.dstSize →
    s.udst.toNat + n ≤ s.cfg.dstSize → s.vdst.toNat + n ≤ s.cfg.dstSize →
    apart s.ydst0.toNat w s.ydst1.toNat w → apart s.ydst0.toNat w s.udst.toNat n →
    apart s.ydst0.toNat w s.vdst.toNat n → apart s.ydst1.toNat w s.udst.toNat n →
    apart s.ydst1.toNat w s.vdst.toNat n → apart s.udst.toNat n s.vdst.toNat n →
    ∃ t, runWords [0x40000000#32, 0x50000000#32, 0x54000000#32, 0x54000001#32] s = .next t ∧ t.status = 0#4 ∧
      (∀ j, j < w → (t.dst.read (s.ydst0.toNat + j)).toNat = rowLuma s (s.src0.toNat + j) ∧
        (t.dst.read (s.ydst1.toNat + j)).toNat = rowLuma s (s.src1.toNat + j)) ∧
      (∀ i, i < n →
        (t.dst.read (s.udst.toNat + i)).toNat = uOf (accLane s 0 i) (accLane s 1 i) (accLane s 2 i) 131072 ∧
        (t.dst.read (s.vdst.toNat + i)).toNat = vOf (accLane s 0 i) (accLane s 1 i) (accLane s 2 i) 131072) ∧
      (∀ a, ¬ inRange s.ydst0.toNat w a → ¬ inRange s.ydst1.toNat w a → ¬ inRange s.udst.toNat n a →
        ¬ inRange s.vdst.toNat n a → t.dst.read a = s.dst.read a)

/-! The whole machine. -/

/-- `State.Inv` (Safety.lean) holds of the machine right after reset. It rests on the configuration chosen there (log 2). -/
def Obligations.ResetStateMeetsTheInvariant : Prop := State.reset.Inv

/-- Every step, of a command or of any other host action, keeps `State.Inv`. -/
def Obligations.StepKeepsTheInvariant : Prop :=
  ∀ s t : State, s.Inv → step s = .next t → t.Inv

/-- 60_exceptions.md R165, R162: a command that faults does nothing but write STATUS and ECMD. -/
def Obligations.FaultWritesOnlyStatusAndEcmd : Prop :=
  ∀ (s t : State) (w : Word) (rest : List HostAction), s.port = .command w :: rest → s.status = 0#4 →
    step s = .next t → t.status ≠ 0#4 →
    1 ≤ t.status.toNat ∧ t.status.toNat ≤ 7 ∧ t = { s with port := rest, status := t.status, ecmd := w }

/-- R167, R18, R19: only the two resets leave the fault state, and they clear every register with it. -/
def Obligations.OnlyResetLeavesTheFaultState : Prop :=
  ∀ s t : State, s.status ≠ 0#4 → step s = .next t →
    (t.status = s.status ∧ t.ecmd = s.ecmd) ∨
    (∃ rest, (s.port = .hardReset :: rest ∨ s.port = .command 0x08000000#32 :: rest) ∧
      t = { cleared s with port := rest })

/-- 10_state.md R17 to R21, 20_memory.md R41, R42: which commands may change which state, over all commands. -/
def Obligations.EachCommandWritesOnlyItsOwnState : Prop :=
  ∀ (i : Instr) (s t : State), exec i s = .next t →
    t.src = s.src ∧ t.cfg = s.cfg ∧ t.port = s.port ∧
    (t.acc ≠ s.acc → i = .accum ∨ i = .reset) ∧
    (t.dst ≠ s.dst → i = .cvtuv ∨ ∃ k, i = .cvty k) ∧
    (t.res ≠ s.res → i = .g2l ∨ (∃ k, i = .l2g k) ∨ i = .rgb2y ∨ i = .rgb2u ∨ i = .rgb2v ∨ i = .reset) ∧
    (t.status ≠ s.status ∨ t.ecmd ≠ s.ecmd → s.status = 0#4 ∧ t.status ≠ 0#4 ∨ i = .reset) ∧
    (i ≠ .reset → (∀ reg imm, i ≠ .set reg imm) → t.width = s.width ∧ t.src0 = s.src0 ∧ t.src1 = s.src1 ∧
      t.ydst0 = s.ydst0 ∧ t.ydst1 = s.ydst1 ∧ t.udst = s.udst ∧ t.vdst = s.vdst ∧ t.a0 = s.a0 ∧ t.a1 = s.a1 ∧
      t.a2 = s.a2 ∧ t.rnd = s.rnd)

/-! The host interface. -/

/-- 20_memory.md R57: the host's accesses, each with its effect and what it returns; an index outside the space is
refused (the model's form of "the model gives the host no such move", log 9). R57 gives the Sample a DST read returns;
that the reply holds it zero-extended to 32 bits is the model's choice (log 12). -/
def Obligations.HostAccessesDoWhatTheInterfaceSays : Prop :=
  ∀ (s : State) (rest : List HostAction), s.cfg.wf = true → s.src.wf = true → s.dst.wf = true →
    (∀ a p, a < s.cfg.srcSize → s.port = .writeSrc a p :: rest →
      ∃ m : Memory, step s = .next { s with port := rest, src := m } ∧ m.wf = true ∧ m.pixel a = p ∧
        ∀ b, b ≠ a → m.pixel b = s.src.pixel b) ∧
    (∀ a v, a < s.cfg.dstSize → s.port = .writeDst a v :: rest →
      ∃ m : Memory, step s = .next { s with port := rest, dst := m } ∧ m.wf = true ∧ m.read a = v ∧
        ∀ b, b ≠ a → m.read b = s.dst.read b) ∧
    (∀ a, a < s.cfg.srcSize → s.port = .readSrc a :: rest →
      step s = .next { s with port := rest } ∧ (HostAction.readSrc a).reply s = some (s.src.pixel a).word) ∧
    (∀ a, a < s.cfg.dstSize → s.port = .readDst a :: rest →
      step s = .next { s with port := rest } ∧
      (HostAction.readDst a).reply s = some (BitVec.ofNat 32 (s.dst.read a).toNat)) ∧
    (∀ a, s.cfg.srcSize ≤ a → (∃ p, s.port = .writeSrc a p :: rest) ∨ s.port = .readSrc a :: rest →
      step s = .refused .hostAccessOutsideSpace) ∧
    (∀ a, s.cfg.dstSize ≤ a → (∃ v, s.port = .writeDst a v :: rest) ∨ s.port = .readDst a :: rest →
      step s = .refused .hostAccessOutsideSpace)

/-- 10_state.md R20: every register through the read port, and no side effect, in the run and the fault state. -/
def Obligations.ReadPortGivesEachRegister : Prop :=
  (∀ s : State,
    s.readPort 0#4 = BitVec.ofNat 32 s.width.toNat ∧ s.readPort 1#4 = BitVec.ofNat 32 s.src0.toNat ∧
    s.readPort 2#4 = BitVec.ofNat 32 s.src1.toNat ∧ s.readPort 3#4 = BitVec.ofNat 32 s.ydst0.toNat ∧
    s.readPort 4#4 = BitVec.ofNat 32 s.ydst1.toNat ∧ s.readPort 5#4 = BitVec.ofNat 32 s.udst.toNat ∧
    s.readPort 6#4 = BitVec.ofNat 32 s.vdst.toNat ∧ s.readPort 7#4 = BitVec.ofNat 32 s.a0.toNat ∧
    s.readPort 8#4 = BitVec.ofNat 32 s.a1.toNat ∧ s.readPort 9#4 = BitVec.ofNat 32 s.a2.toNat ∧
    s.readPort 10#4 = BitVec.ofNat 32 s.rnd.toNat ∧ s.readPort 11#4 = BitVec.ofNat 32 s.res.toNat ∧
    s.readPort 12#4 = BitVec.ofNat 32 s.status.toNat ∧ s.readPort 13#4 = BitVec.ofNat 32 s.accn.toNat ∧
    s.readPort 14#4 = s.ecmd ∧ s.readPort 15#4 = 0#32) ∧
  (∀ (s : State) (n : BitVec 4) (rest : List HostAction), s.cfg.wf = true → s.port = .readReg n :: rest →
    step s = .next { s with port := rest } ∧ (HostAction.readReg n).reply s = some (s.readPort n))

/-- 20_memory.md R43: the byte offsets of a pixel's lanes, and its 32-bit word with r in bits 7:0. -/
def Obligations.PixelBytesAndWord : Prop :=
  (∀ (m : Memory) (a : Nat) (p : Pixel), m.wf = true →
    (m.writePixel a p).read (4 * a) = p.r ∧ (m.writePixel a p).read (4 * a + 1) = p.g ∧
    (m.writePixel a p).read (4 * a + 2) = p.b ∧ (m.writePixel a p).read (4 * a + 3) = p.a) ∧
  (∀ p : Pixel, p.word.extractLsb' 0 8 = p.r ∧ p.word.extractLsb' 8 8 = p.g ∧ p.word.extractLsb' 16 8 = p.b ∧
    p.word.extractLsb' 24 8 = p.a)
end

