-- ==== Sys2Proof/Laws/Arith.lean ====
section
/-! SUPPORT. The arithmetic functions in closed form: shifts and masks as division and remainder, the saturation's
bounds, and the bounds a well-formed configuration gives (00_scope.md WF2, WF3). -/

namespace Sys2Proof.Machine

theorem tablePos_eq (c : Config) (base shift : Nat) :
    tablePos c base shift = base * 2 ^ shift / 2 ^ (c.tabFix + 2) := by
  simp [tablePos, Nat.shiftLeft_eq, Nat.shiftRight_eq_div_pow]

theorem tableFrac_eq (c : Config) (base shift : Nat) :
    tableFrac c base shift = base * 2 ^ shift % 2 ^ (c.tabFix + 2) := by
  simp [tableFrac, Nat.shiftLeft_eq, Nat.and_two_pow_sub_one_eq_mod]

theorem rgbToY_eq (r g b rounding : Nat) :
    rgbToY r g b rounding = (rounding + 1048576 + (16839 * r + 33059 * g + 6420 * b)) / 65536 := by
  simp [rgbToY, Nat.shiftRight_eq_div_pow]

theorem rgbToU_eq (r g b rounding : Nat) :
    rgbToU r g b rounding =
      clip8 ((-9719 * (r : Int) - 19081 * (g : Int) + 28800 * (b : Int) + (rounding : Int) + 33554432) / 262144) := by
  simp [rgbToU, Int.shiftRight_eq_div_pow]

theorem rgbToV_eq (r g b rounding : Nat) :
    rgbToV r g b rounding =
      clip8 ((28800 * (r : Int) - 24116 * (g : Int) - 4684 * (b : Int) + (rounding : Int) + 33554432) / 262144) := by
  simp [rgbToV, Int.shiftRight_eq_div_pow]

theorem clip8_le (v : Int) : clip8 v ≤ 255 := by
  unfold clip8; split
  · omega
  · split <;> omega

theorem rgbToU_le (r g b rounding : Nat) : rgbToU r g b rounding ≤ 255 := clip8_le _

theorem rgbToV_le (r g b rounding : Nat) : rgbToV r g b rounding ≤ 255 := clip8_le _

theorem rgbToY_le {r g b rounding : Nat} (hr : r ≤ 255) (hg : g ≤ 255) (hb : b ≤ 255) (h : rounding < 2 ^ 18) :
    rgbToY r g b rounding ≤ 255 := by
  rw [rgbToY_eq]; omega

theorem foldl_max_init_le (l : List Nat) (x : Nat) : x ≤ l.foldl max x := by
  induction l generalizing x with
  | nil => exact Nat.le_refl x
  | cons y l ih => exact Nat.le_trans (Nat.le_max_left x y) (ih _)

theorem le_foldl_max {l : List Nat} {e : Nat} (h : e ∈ l) (x : Nat) : e ≤ l.foldl max x := by
  induction l generalizing x with
  | nil => cases h
  | cons y l ih =>
    cases h with
    | head => exact Nat.le_trans (Nat.le_max_right x e) (foldl_max_init_le l _)
    | tail _ h => exact ih h _

/-- No expanded Sample exceeds max(G2L). -/
theorem gammaToLinear_le_max (c : Config) (v : Nat) : gammaToLinear c v ≤ c.maxG2l := by
  unfold gammaToLinear Config.maxG2l
  by_cases h : v < c.g2l.length
  · rw [List.getD_eq_getElem _ _ h]; exact le_foldl_max (List.getElem_mem h) 0
  · rw [List.getD_eq_default _ _ (by omega)]; omega

theorem getD_le_of_all {l : List Nat} {n : Nat} (h : l.all (fun e => decide (e ≤ n)) = true) (k : Nat) :
    l.getD k 0 ≤ n := by
  by_cases hk : k < l.length
  · rw [List.getD_eq_getElem _ _ hk]
    simpa using List.all_eq_true.mp h _ (List.getElem_mem hk)
  · rw [List.getD_eq_default _ _ (by omega)]; omega

/-- The conjuncts of a well-formed configuration. -/
theorem Config.wf_parts {c : Config} (h : c.wf = true) :
    c.tablesSized = true ∧ c.sizesInRange = true ∧ c.wf1 = true ∧ c.wf2 = true ∧ c.wf3 = true := by
  simp only [Config.wf, Bool.and_eq_true] at h
  exact ⟨h.1.1.1.1, h.1.1.1.2, h.1.1.2, h.1.2, h.2⟩

theorem Config.g2l_le {c : Config} (h : c.wf = true) (v : Nat) : gammaToLinear c v ≤ 65535 := by
  have h3 := (Config.wf_parts h).2.2.2.2
  simp only [Config.wf3, Bool.and_eq_true] at h3
  exact getD_le_of_all h3.1 v

theorem Config.l2g_le {c : Config} (h : c.wf = true) (k : Nat) : l2gEntry c k ≤ 16383 := by
  have h3 := (Config.wf_parts h).2.2.2.2
  simp only [Config.wf3, Bool.and_eq_true] at h3
  exact getD_le_of_all h3.2 k

theorem Config.wmax_le {c : Config} (h : c.wf = true) : c.wmax ≤ 16383 := by
  have h2 := (Config.wf_parts h).2.1
  simp only [Config.sizesInRange, Bool.and_eq_true, decide_eq_true_eq] at h2
  omega

theorem Config.tabFix_pos {c : Config} (h : c.wf = true) : 1 ≤ c.tabFix := by
  have h1 := (Config.wf_parts h).2.2.1
  simp only [Config.wf1, Bool.and_eq_true, decide_eq_true_eq] at h1
  exact h1.1

/-- LinearToGamma never exceeds 65532 under WF1 and WF3 (10_state.md R17, 41_gamma.md R93). -/
theorem linearToGamma_le {c : Config} (h : c.wf = true) (base shift : Nat) : linearToGamma c base shift ≤ 65532 := by
  have hf := Config.tabFix_pos h
  have h0 := Config.l2g_le h (tablePos c base shift)
  have h1 := Config.l2g_le h (tablePos c base shift + 1)
  unfold linearToGamma
  simp only [Nat.shiftRight_eq_div_pow]
  have hx : tableFrac c base shift < 2 ^ (c.tabFix + 2) := by
    rw [tableFrac_eq]; exact Nat.mod_lt _ (by positivity)
  generalize tableFrac c base shift = x at *
  generalize l2gEntry c (tablePos c base shift) = v0 at *
  generalize l2gEntry c (tablePos c base shift + 1) = v1 at *
  have hS : 2 ^ (c.tabFix + 2) = 4 * 2 ^ c.tabFix := by rw [pow_add]; ring
  have hP : 2 ^ c.tabFix = 2 * 2 ^ (c.tabFix - 1) := by
    obtain ⟨n, hn⟩ : ∃ n, c.tabFix = n + 1 := ⟨c.tabFix - 1, by omega⟩
    rw [hn, pow_succ]; simp [Nat.mul_comm]
  have hq : 0 < 2 ^ (c.tabFix - 1) := by positivity
  generalize 2 ^ (c.tabFix + 2) = S at *
  generalize 2 ^ c.tabFix = P at *
  generalize 2 ^ (c.tabFix - 1) = q at *
  have hy : v1 * x + v0 * (S - x) ≤ 16383 * S := by
    calc v1 * x + v0 * (S - x) ≤ 16383 * x + 16383 * (S - x) :=
          Nat.add_le_add (Nat.mul_le_mul_right _ h1) (Nat.mul_le_mul_right _ h0)
      _ = 16383 * S := by rw [← Nat.mul_add]; congr 1; omega
  refine Nat.le_of_lt_succ ((Nat.div_lt_iff_lt_mul (by omega)).mpr ?_)
  omega

/-- Every lane ACCUM stores is at most 65532, so its 16-bit cell truncates nothing (42_accumulate.md R113). -/
theorem lane_le {c : Config} (h : c.wf = true) (base shift : Nat) :
    (BitVec.ofNat 16 (linearToGamma c base shift)).toNat ≤ 65532 := by
  have := linearToGamma_le h base shift
  rw [BitVec.toNat_ofNat, Nat.mod_eq_of_lt (by omega)]
  exact this

end Sys2Proof.Machine
end

