-- ==== Sys2Proof/Laws/Decode.lean ====
section
/-! SUPPORT. The fields of the three formats (30_encoding.md R61 to R63): what each field of an encoded word reads, and
that a word is put together from its fields. -/

namespace Sys2Proof

theorem getLsbD_formatZ (op : BitVec 6) (i : Nat) :
    (formatZ op).getLsbD i = if i < 26 then false else op.getLsbD (i - 26) := by
  refine (@BitVec.getLsbD_append 6 26 i op 0#26).trans ?_
  by_cases h : i < 26 <;> simp [h]

theorem getLsbD_formatS (op : BitVec 6) (reg : BitVec 4) (imm : BitVec 22) (i : Nat) :
    (formatS op reg imm).getLsbD i =
      if i < 22 then imm.getLsbD i else if i < 26 then reg.getLsbD (i - 22) else op.getLsbD (i - 26) := by
  refine (@BitVec.getLsbD_append 10 22 i (op ++ reg) imm).trans ?_
  by_cases h : i < 22
  · simp [h]
  · simp only [h, if_false]
    refine (@BitVec.getLsbD_append 6 4 (i - 22) op reg).trans ?_
    by_cases h' : i < 26
    · simp [h', show i - 22 < 4 by omega]
    · simp [h', show ¬ i - 22 < 4 by omega, show i - 22 - 4 = i - 26 by omega]

theorem getLsbD_formatB (op : BitVec 6) (k : BitVec 1) (i : Nat) :
    (formatB op k).getLsbD i = if i < 1 then k.getLsbD i else if i < 26 then false else op.getLsbD (i - 26) := by
  refine (@BitVec.getLsbD_append 31 1 i (op ++ 0#25) k).trans ?_
  by_cases h : i < 1
  · simp [h]
  · simp only [h, if_false]
    refine (@BitVec.getLsbD_append 6 25 (i - 1) op 0#25).trans ?_
    by_cases h' : i < 26
    · simp [h', show i - 1 < 25 by omega]
    · simp [h', show ¬ i - 1 < 25 by omega, show i - 1 - 25 = i - 26 by omega]

@[simp] theorem opField_formatZ (op : BitVec 6) : opField (formatZ op) = op := by
  apply BitVec.eq_of_getLsbD_eq; intro i hi
  simp [opField, getLsbD_formatZ, hi]

@[simp] theorem zeroFieldZ_formatZ (op : BitVec 6) : zeroFieldZ (formatZ op) = 0#26 := by
  apply BitVec.eq_of_getLsbD_eq; intro i hi
  simp [zeroFieldZ, getLsbD_formatZ, hi]

@[simp] theorem opField_formatS (op : BitVec 6) (reg : BitVec 4) (imm : BitVec 22) :
    opField (formatS op reg imm) = op := by
  apply BitVec.eq_of_getLsbD_eq; intro i hi
  simp [opField, getLsbD_formatS, hi, show ¬ 26 + i < 22 by omega]

@[simp] theorem regField_formatS (op : BitVec 6) (reg : BitVec 4) (imm : BitVec 22) :
    regField (formatS op reg imm) = reg := by
  apply BitVec.eq_of_getLsbD_eq; intro i hi
  simp [regField, getLsbD_formatS, hi, show 22 + i < 26 by omega]

@[simp] theorem immField_formatS (op : BitVec 6) (reg : BitVec 4) (imm : BitVec 22) :
    immField (formatS op reg imm) = imm := by
  apply BitVec.eq_of_getLsbD_eq; intro i hi
  simp [immField, getLsbD_formatS, hi]

@[simp] theorem opField_formatB (op : BitVec 6) (k : BitVec 1) : opField (formatB op k) = op := by
  apply BitVec.eq_of_getLsbD_eq; intro i hi
  simp [opField, getLsbD_formatB, hi]

@[simp] theorem zeroFieldB_formatB (op : BitVec 6) (k : BitVec 1) : zeroFieldB (formatB op k) = 0#25 := by
  apply BitVec.eq_of_getLsbD_eq; intro i hi
  simp [zeroFieldB, getLsbD_formatB, hi, show 1 + i < 26 by omega]

@[simp] theorem kField_formatB (op : BitVec 6) (k : BitVec 1) : kField (formatB op k) = k := by
  apply BitVec.eq_of_getLsbD_eq; intro i hi
  simp [kField, getLsbD_formatB, hi]

/-- A format Z word with a zero w[25:0] is its opcode's word. -/
theorem formatZ_of_fields {w : Word} (h : zeroFieldZ w = 0#26) : formatZ (opField w) = w := by
  apply BitVec.eq_of_getLsbD_eq; intro i hi
  rw [getLsbD_formatZ]
  split
  · have := congrArg (fun z => BitVec.getLsbD z i) h
    simpa [zeroFieldZ, *] using this
  · simp [opField, show i - 26 < 6 by omega, show 26 + (i - 26) = i by omega]

/-- A word is its op, reg and imm fields put together. -/
theorem formatS_of_fields (w : Word) : formatS (opField w) (regField w) (immField w) = w := by
  apply BitVec.eq_of_getLsbD_eq; intro i hi
  rw [getLsbD_formatS]
  split
  · simp [immField, *]
  · split
    · simp [regField, show i - 22 < 4 by omega, show 22 + (i - 22) = i by omega]
    · simp [opField, show i - 26 < 6 by omega, show 26 + (i - 26) = i by omega]

/-- A format B word with a zero w[25:1] is its op and k fields put together. -/
theorem formatB_of_fields {w : Word} (h : zeroFieldB w = 0#25) : formatB (opField w) (kField w) = w := by
  apply BitVec.eq_of_getLsbD_eq; intro i hi
  rw [getLsbD_formatB]
  split
  · simp [kField, *]
  · split
    · have := congrArg (fun z => BitVec.getLsbD z (i - 1)) h
      simpa [zeroFieldB, show i - 1 < 25 by omega, show 1 + (i - 1) = i by omega] using this
    · simp [opField, show i - 26 < 6 by omega, show 26 + (i - 26) = i by omega]

/-- One link of the decoder's chain of tests, inverted. -/
theorem ok_of_ite {p : Prop} [Decidable p] {a b : Except Reject Instr} {i : Instr}
    (h : (if p then a else b) = .ok i) : (p ∧ a = .ok i) ∨ (¬ p ∧ b = .ok i) := by
  by_cases hp : p
  · exact .inl ⟨hp, by rwa [if_pos hp] at h⟩
  · exact .inr ⟨hp, by rwa [if_neg hp] at h⟩

theorem decodeZ_ok {i j : Instr} {w : Word} (h : decodeZ i w = .ok j) : zeroFieldZ w = 0#26 ∧ j = i := by
  unfold decodeZ at h; split at h
  · cases h; exact ⟨‹_›, rfl⟩
  · cases h

theorem decodeB_ok {i : BitVec 1 → Instr} {j : Instr} {w : Word} (h : decodeB i w = .ok j) :
    zeroFieldB w = 0#25 ∧ j = i (kField w) := by
  unfold decodeB at h; split at h
  · cases h; exact ⟨‹_›, rfl⟩
  · cases h

theorem decodeS_ok {i : BitVec 4 → BitVec 22 → Instr} {j : Instr} {w : Word} (h : decodeS i w = .ok j) :
    regField w ≠ 15#4 ∧ j = i (regField w) (immField w) := by
  unfold decodeS at h; split at h
  · cases h
  · cases h; exact ⟨‹_›, rfl⟩

end Sys2Proof
end

