-- ==== Sys2Proof/Laws/State.lean ====
section
/-! SUPPORT. One simp lemma per field per named update of the state, so that no later proof unfolds a record update. -/

namespace Sys2Proof.Machine.State

variable (s : State)

@[simp] theorem setRes_width (v : Nat) : (s.setRes v).width = s.width := rfl
@[simp] theorem setRes_src0 (v : Nat) : (s.setRes v).src0 = s.src0 := rfl
@[simp] theorem setRes_src1 (v : Nat) : (s.setRes v).src1 = s.src1 := rfl
@[simp] theorem setRes_ydst0 (v : Nat) : (s.setRes v).ydst0 = s.ydst0 := rfl
@[simp] theorem setRes_ydst1 (v : Nat) : (s.setRes v).ydst1 = s.ydst1 := rfl
@[simp] theorem setRes_udst (v : Nat) : (s.setRes v).udst = s.udst := rfl
@[simp] theorem setRes_vdst (v : Nat) : (s.setRes v).vdst = s.vdst := rfl
@[simp] theorem setRes_a0 (v : Nat) : (s.setRes v).a0 = s.a0 := rfl
@[simp] theorem setRes_a1 (v : Nat) : (s.setRes v).a1 = s.a1 := rfl
@[simp] theorem setRes_a2 (v : Nat) : (s.setRes v).a2 = s.a2 := rfl
@[simp] theorem setRes_rnd (v : Nat) : (s.setRes v).rnd = s.rnd := rfl
@[simp] theorem setRes_res (v : Nat) : (s.setRes v).res = BitVec.ofNat 22 v := rfl
@[simp] theorem setRes_status (v : Nat) : (s.setRes v).status = s.status := rfl
@[simp] theorem setRes_ecmd (v : Nat) : (s.setRes v).ecmd = s.ecmd := rfl
@[simp] theorem setRes_acc (v : Nat) : (s.setRes v).acc = s.acc := rfl
@[simp] theorem setRes_src (v : Nat) : (s.setRes v).src = s.src := rfl
@[simp] theorem setRes_dst (v : Nat) : (s.setRes v).dst = s.dst := rfl
@[simp] theorem setRes_cfg (v : Nat) : (s.setRes v).cfg = s.cfg := rfl
@[simp] theorem setRes_port (v : Nat) : (s.setRes v).port = s.port := rfl

@[simp] theorem setAcc_width (es : List AccEntry) : (s.setAcc es).width = s.width := rfl
@[simp] theorem setAcc_src0 (es : List AccEntry) : (s.setAcc es).src0 = s.src0 := rfl
@[simp] theorem setAcc_src1 (es : List AccEntry) : (s.setAcc es).src1 = s.src1 := rfl
@[simp] theorem setAcc_ydst0 (es : List AccEntry) : (s.setAcc es).ydst0 = s.ydst0 := rfl
@[simp] theorem setAcc_ydst1 (es : List AccEntry) : (s.setAcc es).ydst1 = s.ydst1 := rfl
@[simp] theorem setAcc_udst (es : List AccEntry) : (s.setAcc es).udst = s.udst := rfl
@[simp] theorem setAcc_vdst (es : List AccEntry) : (s.setAcc es).vdst = s.vdst := rfl
@[simp] theorem setAcc_a0 (es : List AccEntry) : (s.setAcc es).a0 = s.a0 := rfl
@[simp] theorem setAcc_a1 (es : List AccEntry) : (s.setAcc es).a1 = s.a1 := rfl
@[simp] theorem setAcc_a2 (es : List AccEntry) : (s.setAcc es).a2 = s.a2 := rfl
@[simp] theorem setAcc_rnd (es : List AccEntry) : (s.setAcc es).rnd = s.rnd := rfl
@[simp] theorem setAcc_res (es : List AccEntry) : (s.setAcc es).res = s.res := rfl
@[simp] theorem setAcc_status (es : List AccEntry) : (s.setAcc es).status = s.status := rfl
@[simp] theorem setAcc_ecmd (es : List AccEntry) : (s.setAcc es).ecmd = s.ecmd := rfl
@[simp] theorem setAcc_acc (es : List AccEntry) : (s.setAcc es).acc = es := rfl
@[simp] theorem setAcc_src (es : List AccEntry) : (s.setAcc es).src = s.src := rfl
@[simp] theorem setAcc_dst (es : List AccEntry) : (s.setAcc es).dst = s.dst := rfl
@[simp] theorem setAcc_cfg (es : List AccEntry) : (s.setAcc es).cfg = s.cfg := rfl
@[simp] theorem setAcc_port (es : List AccEntry) : (s.setAcc es).port = s.port := rfl

@[simp] theorem setSrc_width (m : Memory) : (s.setSrc m).width = s.width := rfl
@[simp] theorem setSrc_src0 (m : Memory) : (s.setSrc m).src0 = s.src0 := rfl
@[simp] theorem setSrc_src1 (m : Memory) : (s.setSrc m).src1 = s.src1 := rfl
@[simp] theorem setSrc_ydst0 (m : Memory) : (s.setSrc m).ydst0 = s.ydst0 := rfl
@[simp] theorem setSrc_ydst1 (m : Memory) : (s.setSrc m).ydst1 = s.ydst1 := rfl
@[simp] theorem setSrc_udst (m : Memory) : (s.setSrc m).udst = s.udst := rfl
@[simp] theorem setSrc_vdst (m : Memory) : (s.setSrc m).vdst = s.vdst := rfl
@[simp] theorem setSrc_a0 (m : Memory) : (s.setSrc m).a0 = s.a0 := rfl
@[simp] theorem setSrc_a1 (m : Memory) : (s.setSrc m).a1 = s.a1 := rfl
@[simp] theorem setSrc_a2 (m : Memory) : (s.setSrc m).a2 = s.a2 := rfl
@[simp] theorem setSrc_rnd (m : Memory) : (s.setSrc m).rnd = s.rnd := rfl
@[simp] theorem setSrc_res (m : Memory) : (s.setSrc m).res = s.res := rfl
@[simp] theorem setSrc_status (m : Memory) : (s.setSrc m).status = s.status := rfl
@[simp] theorem setSrc_ecmd (m : Memory) : (s.setSrc m).ecmd = s.ecmd := rfl
@[simp] theorem setSrc_acc (m : Memory) : (s.setSrc m).acc = s.acc := rfl
@[simp] theorem setSrc_src (m : Memory) : (s.setSrc m).src = m := rfl
@[simp] theorem setSrc_dst (m : Memory) : (s.setSrc m).dst = s.dst := rfl
@[simp] theorem setSrc_cfg (m : Memory) : (s.setSrc m).cfg = s.cfg := rfl
@[simp] theorem setSrc_port (m : Memory) : (s.setSrc m).port = s.port := rfl

@[simp] theorem setDst_width (m : Memory) : (s.setDst m).width = s.width := rfl
@[simp] theorem setDst_src0 (m : Memory) : (s.setDst m).src0 = s.src0 := rfl
@[simp] theorem setDst_src1 (m : Memory) : (s.setDst m).src1 = s.src1 := rfl
@[simp] theorem setDst_ydst0 (m : Memory) : (s.setDst m).ydst0 = s.ydst0 := rfl
@[simp] theorem setDst_ydst1 (m : Memory) : (s.setDst m).ydst1 = s.ydst1 := rfl
@[simp] theorem setDst_udst (m : Memory) : (s.setDst m).udst = s.udst := rfl
@[simp] theorem setDst_vdst (m : Memory) : (s.setDst m).vdst = s.vdst := rfl
@[simp] theorem setDst_a0 (m : Memory) : (s.setDst m).a0 = s.a0 := rfl
@[simp] theorem setDst_a1 (m : Memory) : (s.setDst m).a1 = s.a1 := rfl
@[simp] theorem setDst_a2 (m : Memory) : (s.setDst m).a2 = s.a2 := rfl
@[simp] theorem setDst_rnd (m : Memory) : (s.setDst m).rnd = s.rnd := rfl
@[simp] theorem setDst_res (m : Memory) : (s.setDst m).res = s.res := rfl
@[simp] theorem setDst_status (m : Memory) : (s.setDst m).status = s.status := rfl
@[simp] theorem setDst_ecmd (m : Memory) : (s.setDst m).ecmd = s.ecmd := rfl
@[simp] theorem setDst_acc (m : Memory) : (s.setDst m).acc = s.acc := rfl
@[simp] theorem setDst_src (m : Memory) : (s.setDst m).src = s.src := rfl
@[simp] theorem setDst_dst (m : Memory) : (s.setDst m).dst = m := rfl
@[simp] theorem setDst_cfg (m : Memory) : (s.setDst m).cfg = s.cfg := rfl
@[simp] theorem setDst_port (m : Memory) : (s.setDst m).port = s.port := rfl

@[simp] theorem raise_width (c : Cause) (w : Word) : (s.raise c w).width = s.width := rfl
@[simp] theorem raise_src0 (c : Cause) (w : Word) : (s.raise c w).src0 = s.src0 := rfl
@[simp] theorem raise_src1 (c : Cause) (w : Word) : (s.raise c w).src1 = s.src1 := rfl
@[simp] theorem raise_ydst0 (c : Cause) (w : Word) : (s.raise c w).ydst0 = s.ydst0 := rfl
@[simp] theorem raise_ydst1 (c : Cause) (w : Word) : (s.raise c w).ydst1 = s.ydst1 := rfl
@[simp] theorem raise_udst (c : Cause) (w : Word) : (s.raise c w).udst = s.udst := rfl
@[simp] theorem raise_vdst (c : Cause) (w : Word) : (s.raise c w).vdst = s.vdst := rfl
@[simp] theorem raise_a0 (c : Cause) (w : Word) : (s.raise c w).a0 = s.a0 := rfl
@[simp] theorem raise_a1 (c : Cause) (w : Word) : (s.raise c w).a1 = s.a1 := rfl
@[simp] theorem raise_a2 (c : Cause) (w : Word) : (s.raise c w).a2 = s.a2 := rfl
@[simp] theorem raise_rnd (c : Cause) (w : Word) : (s.raise c w).rnd = s.rnd := rfl
@[simp] theorem raise_res (c : Cause) (w : Word) : (s.raise c w).res = s.res := rfl
@[simp] theorem raise_status (c : Cause) (w : Word) : (s.raise c w).status = c.code := rfl
@[simp] theorem raise_ecmd (c : Cause) (w : Word) : (s.raise c w).ecmd = w := rfl
@[simp] theorem raise_acc (c : Cause) (w : Word) : (s.raise c w).acc = s.acc := rfl
@[simp] theorem raise_src (c : Cause) (w : Word) : (s.raise c w).src = s.src := rfl
@[simp] theorem raise_dst (c : Cause) (w : Word) : (s.raise c w).dst = s.dst := rfl
@[simp] theorem raise_cfg (c : Cause) (w : Word) : (s.raise c w).cfg = s.cfg := rfl
@[simp] theorem raise_port (c : Cause) (w : Word) : (s.raise c w).port = s.port := rfl

@[simp] theorem withPort_width (l : List HostAction) : (s.withPort l).width = s.width := rfl
@[simp] theorem withPort_src0 (l : List HostAction) : (s.withPort l).src0 = s.src0 := rfl
@[simp] theorem withPort_src1 (l : List HostAction) : (s.withPort l).src1 = s.src1 := rfl
@[simp] theorem withPort_ydst0 (l : List HostAction) : (s.withPort l).ydst0 = s.ydst0 := rfl
@[simp] theorem withPort_ydst1 (l : List HostAction) : (s.withPort l).ydst1 = s.ydst1 := rfl
@[simp] theorem withPort_udst (l : List HostAction) : (s.withPort l).udst = s.udst := rfl
@[simp] theorem withPort_vdst (l : List HostAction) : (s.withPort l).vdst = s.vdst := rfl
@[simp] theorem withPort_a0 (l : List HostAction) : (s.withPort l).a0 = s.a0 := rfl
@[simp] theorem withPort_a1 (l : List HostAction) : (s.withPort l).a1 = s.a1 := rfl
@[simp] theorem withPort_a2 (l : List HostAction) : (s.withPort l).a2 = s.a2 := rfl
@[simp] theorem withPort_rnd (l : List HostAction) : (s.withPort l).rnd = s.rnd := rfl
@[simp] theorem withPort_res (l : List HostAction) : (s.withPort l).res = s.res := rfl
@[simp] theorem withPort_status (l : List HostAction) : (s.withPort l).status = s.status := rfl
@[simp] theorem withPort_ecmd (l : List HostAction) : (s.withPort l).ecmd = s.ecmd := rfl
@[simp] theorem withPort_acc (l : List HostAction) : (s.withPort l).acc = s.acc := rfl
@[simp] theorem withPort_src (l : List HostAction) : (s.withPort l).src = s.src := rfl
@[simp] theorem withPort_dst (l : List HostAction) : (s.withPort l).dst = s.dst := rfl
@[simp] theorem withPort_cfg (l : List HostAction) : (s.withPort l).cfg = s.cfg := rfl
@[simp] theorem withPort_port (l : List HostAction) : (s.withPort l).port = l := rfl

@[simp] theorem doReset_width : s.doReset.width = 0 := rfl
@[simp] theorem doReset_src0 : s.doReset.src0 = 0 := rfl
@[simp] theorem doReset_src1 : s.doReset.src1 = 0 := rfl
@[simp] theorem doReset_ydst0 : s.doReset.ydst0 = 0 := rfl
@[simp] theorem doReset_ydst1 : s.doReset.ydst1 = 0 := rfl
@[simp] theorem doReset_udst : s.doReset.udst = 0 := rfl
@[simp] theorem doReset_vdst : s.doReset.vdst = 0 := rfl
@[simp] theorem doReset_a0 : s.doReset.a0 = 0 := rfl
@[simp] theorem doReset_a1 : s.doReset.a1 = 0 := rfl
@[simp] theorem doReset_a2 : s.doReset.a2 = 0 := rfl
@[simp] theorem doReset_rnd : s.doReset.rnd = 0 := rfl
@[simp] theorem doReset_res : s.doReset.res = 0 := rfl
@[simp] theorem doReset_status : s.doReset.status = 0 := rfl
@[simp] theorem doReset_ecmd : s.doReset.ecmd = 0 := rfl
@[simp] theorem doReset_acc : s.doReset.acc = [] := rfl
@[simp] theorem doReset_src : s.doReset.src = s.src := rfl
@[simp] theorem doReset_dst : s.doReset.dst = s.dst := rfl
@[simp] theorem doReset_cfg : s.doReset.cfg = s.cfg := rfl
@[simp] theorem doReset_port : s.doReset.port = s.port := rfl

@[simp] theorem writeReg_width (imm : BitVec 22) : s.writeReg .width imm = { s with width := imm.setWidth 14 } := rfl
@[simp] theorem writeReg_src0 (imm : BitVec 22) : s.writeReg .src0 imm = { s with src0 := imm } := rfl
@[simp] theorem writeReg_src1 (imm : BitVec 22) : s.writeReg .src1 imm = { s with src1 := imm } := rfl
@[simp] theorem writeReg_ydst0 (imm : BitVec 22) : s.writeReg .ydst0 imm = { s with ydst0 := imm } := rfl
@[simp] theorem writeReg_ydst1 (imm : BitVec 22) : s.writeReg .ydst1 imm = { s with ydst1 := imm } := rfl
@[simp] theorem writeReg_udst (imm : BitVec 22) : s.writeReg .udst imm = { s with udst := imm } := rfl
@[simp] theorem writeReg_vdst (imm : BitVec 22) : s.writeReg .vdst imm = { s with vdst := imm } := rfl
@[simp] theorem writeReg_a0 (imm : BitVec 22) : s.writeReg .a0 imm = { s with a0 := imm } := rfl
@[simp] theorem writeReg_a1 (imm : BitVec 22) : s.writeReg .a1 imm = { s with a1 := imm } := rfl
@[simp] theorem writeReg_a2 (imm : BitVec 22) : s.writeReg .a2 imm = { s with a2 := imm } := rfl
@[simp] theorem writeReg_rnd (imm : BitVec 22) : s.writeReg .rnd imm = { s with rnd := imm.setWidth 18 } := rfl
@[simp] theorem writeReg_keeps_res (r : RwReg) (imm : BitVec 22) : (s.writeReg r imm).res = s.res := by cases r <;> rfl
@[simp] theorem writeReg_keeps_status (r : RwReg) (imm : BitVec 22) : (s.writeReg r imm).status = s.status := by cases r <;> rfl
@[simp] theorem writeReg_keeps_ecmd (r : RwReg) (imm : BitVec 22) : (s.writeReg r imm).ecmd = s.ecmd := by cases r <;> rfl
@[simp] theorem writeReg_keeps_acc (r : RwReg) (imm : BitVec 22) : (s.writeReg r imm).acc = s.acc := by cases r <;> rfl
@[simp] theorem writeReg_keeps_src (r : RwReg) (imm : BitVec 22) : (s.writeReg r imm).src = s.src := by cases r <;> rfl
@[simp] theorem writeReg_keeps_dst (r : RwReg) (imm : BitVec 22) : (s.writeReg r imm).dst = s.dst := by cases r <;> rfl
@[simp] theorem writeReg_keeps_cfg (r : RwReg) (imm : BitVec 22) : (s.writeReg r imm).cfg = s.cfg := by cases r <;> rfl
@[simp] theorem writeReg_keeps_port (r : RwReg) (imm : BitVec 22) : (s.writeReg r imm).port = s.port := by cases r <;> rfl

/-! The state after reset, field by field (10_state.md R31). -/

@[simp] theorem reset_width : State.reset.width = 0 := rfl
@[simp] theorem reset_src0 : State.reset.src0 = 0 := rfl
@[simp] theorem reset_src1 : State.reset.src1 = 0 := rfl
@[simp] theorem reset_ydst0 : State.reset.ydst0 = 0 := rfl
@[simp] theorem reset_ydst1 : State.reset.ydst1 = 0 := rfl
@[simp] theorem reset_udst : State.reset.udst = 0 := rfl
@[simp] theorem reset_vdst : State.reset.vdst = 0 := rfl
@[simp] theorem reset_a0 : State.reset.a0 = 0 := rfl
@[simp] theorem reset_a1 : State.reset.a1 = 0 := rfl
@[simp] theorem reset_a2 : State.reset.a2 = 0 := rfl
@[simp] theorem reset_rnd : State.reset.rnd = 0 := rfl
@[simp] theorem reset_res : State.reset.res = 0 := rfl
@[simp] theorem reset_status : State.reset.status = 0 := rfl
@[simp] theorem reset_ecmd : State.reset.ecmd = 0 := rfl
@[simp] theorem reset_acc : State.reset.acc = [] := rfl
@[simp] theorem reset_src : State.reset.src = [] := rfl
@[simp] theorem reset_dst : State.reset.dst = [] := rfl
@[simp] theorem reset_cfg : State.reset.cfg = Config.ref := rfl
@[simp] theorem reset_port : State.reset.port = [] := rfl

end Sys2Proof.Machine.State
end

