-- ==== Sys2Proof/Laws/Exec.lean ====
section
/-! SUPPORT. What a command can do, said once: it is discarded in the fault state, or it is RESET, or it raises a fault,
or it completes with its own effect. Later proofs cite `exec_cases` instead of unfolding a meaning. -/

namespace Sys2Proof.Machine

/-- In the run state the gate lets a command through. -/
theorem gate_run {s : State} (h : s.status = 0#4) (r : Result) : gate s r = r := if_pos h

/-- In the fault state the gate discards a command (60_exceptions.md R166). -/
theorem gate_discards {s : State} (h : s.status ≠ 0#4) (r : Result) : gate s r = .next s := if_neg h

theorem gate_cases {s : State} {r : Result} {o : Result} (h : gate s r = o) :
    (s.running ∧ r = o) ∨ (¬ s.running ∧ o = .next s) := by
  unfold gate at h; split at h
  · exact .inl ⟨‹_›, h⟩
  · exact .inr ⟨‹_›, h.symm⟩

/-- A code is 1 to 7 (60_exceptions.md R160). -/
theorem Cause.code_range (c : Cause) : c.code ≠ 0#4 ∧ c.code.toNat ≤ 7 := by cases c <;> decide

theorem raise_not_running (s : State) (c : Cause) (w : Word) : ¬ (s.raise c w).running :=
  (Cause.code_range c).1

/-- Every register number but 15 names a register (10_state.md R11). -/
theorem Reg.ofNum?_none {n : BitVec 4} : Reg.ofNum? n = none ↔ n = 15#4 := by revert n; decide

/-- The completed effect of each command, with the checks it has passed. -/
inductive Completes (s : State) : Instr → State → Prop where
  | set {reg : BitVec 4} {imm : BitVec 22} {r : RwReg} (hr : Reg.ofNum? reg = some (.rw r))
      (hw : ¬ (r = .width ∧ (imm.toNat = 0 ∨ s.cfg.wmax < imm.toNat))) (hn : ¬ (r = .rnd ∧ 2 ^ 18 ≤ imm.toNat)) :
      Completes s (.set reg imm) (s.writeReg r imm)
  | g2l (h : s.a0.toNat ≤ 255) : Completes s .g2l (s.setRes (gammaToLinear s.cfg s.a0.toNat))
  | l2g {k : BitVec 1} (h : tablePos s.cfg s.a0.toNat k.toNat < s.cfg.tabSize) :
      Completes s (.l2g k) (s.setRes (linearToGamma s.cfg s.a0.toNat k.toNat))
  | rgb2y (h : s.scalarsAtMost 255) :
      Completes s .rgb2y (s.setRes (rgbToY s.a0.toNat s.a1.toNat s.a2.toNat s.rnd.toNat))
  | rgb2u (h : s.scalarsAtMost 65535) :
      Completes s .rgb2u (s.setRes (rgbToU s.a0.toNat s.a1.toNat s.a2.toNat s.rnd.toNat))
  | rgb2v (h : s.scalarsAtMost 65535) :
      Completes s .rgb2v (s.setRes (rgbToV s.a0.toNat s.a1.toNat s.a2.toNat s.rnd.toNat))
  | accum (hw : s.width.toNat ≠ 0) (h0 : s.srcInBounds s.src0.toNat s.width.toNat)
      (h1 : s.srcInBounds s.src1.toNat s.width.toNat) : Completes s .accum (s.setAcc s.accumulated)
  | cvtuv (hn : s.acc.length ≠ 0) (hu : s.dstInBounds s.udst.toNat s.acc.length)
      (hv : s.dstInBounds s.vdst.toNat s.acc.length) (ho : ¬ rangesOverlap s.udst.toNat s.vdst.toNat s.acc.length) :
      Completes s .cvtuv (s.setDst (s.dst.writeChroma s.udst.toNat s.vdst.toNat s.acc))
  | cvty {k : BitVec 1} (hw : s.width.toNat ≠ 0) (hs : s.srcInBounds (s.srcBase k) s.width.toNat)
      (hd : s.dstInBounds (s.ydstBase k) s.width.toNat) :
      Completes s (.cvty k) (s.setDst (s.dst.writeRow (s.ydstBase k) (s.lumaRow k)))

/-- Everything a command can do. -/
inductive Effect (i : Instr) (s t : State) : Prop where
  | discarded (hr : ¬ s.running) (hi : i ≠ .reset) (ht : t = s)
  | reset (hi : i = .reset) (ht : t = s.doReset)
  | raised (hr : s.running) (c : Cause) (ht : t = s.raise c (encode i))
  | completed (hr : s.running) (hc : Completes s i t)

theorem gated_effect {i : Instr} {s t : State} {r : Result} (hi : i ≠ .reset) (h : gate s r = .next t)
    (hr : s.running → r = .next t → (∃ c, t = s.raise c (encode i)) ∨ Completes s i t) : Effect i s t := by
  rcases gate_cases h with ⟨hrun, h⟩ | ⟨hrun, h⟩
  · rcases hr hrun h with ⟨c, ht⟩ | hc
    · exact .raised hrun c ht
    · exact .completed hrun hc
  · cases h; exact .discarded hrun hi rfl

theorem raiseBy_next {c : Cause} {i : Instr} {s t : State} (h : raiseBy c i s = .next t) :
    ∃ c, t = s.raise c (encode i) := by
  cases h; exact ⟨c, rfl⟩

/-- One inversion lemma for `exec`: the four things a command can do. -/
theorem exec_cases {i : Instr} {s t : State} (h : exec i s = .next t) : Effect i s t := by
  cases i with
  | set reg imm =>
    refine gated_effect (by simp) h fun _ h => ?_
    split at h
    · exact .inl (raiseBy_next h)
    · exact .inl (raiseBy_next h)
    · split at h
      · exact .inl (raiseBy_next h)
      · split at h
        · exact .inl (raiseBy_next h)
        · cases h; exact .inr (.set ‹_› ‹_› ‹_›)
  | reset => cases h; exact .reset rfl rfl
  | g2l =>
    refine gated_effect (by simp) h fun _ h => ?_
    split at h
    · exact .inl (raiseBy_next h)
    · cases h; exact .inr (.g2l (by omega))
  | l2g k =>
    refine gated_effect (by simp) h fun _ h => ?_
    split at h
    · exact .inl (raiseBy_next h)
    · cases h; exact .inr (.l2g (by omega))
  | rgb2y =>
    refine gated_effect (by simp) h fun _ h => ?_
    split at h
    · exact .inl (raiseBy_next h)
    · cases h; exact .inr (.rgb2y (not_not.mp ‹_›))
  | rgb2u =>
    refine gated_effect (by simp) h fun _ h => ?_
    split at h
    · exact .inl (raiseBy_next h)
    · cases h; exact .inr (.rgb2u (not_not.mp ‹_›))
  | rgb2v =>
    refine gated_effect (by simp) h fun _ h => ?_
    split at h
    · exact .inl (raiseBy_next h)
    · cases h; exact .inr (.rgb2v (not_not.mp ‹_›))
  | accum =>
    refine gated_effect (by simp) h fun _ h => ?_
    split at h
    · exact .inl (raiseBy_next h)
    · split at h
      · exact .inl (raiseBy_next h)
      · split at h
        · exact .inl (raiseBy_next h)
        · cases h; exact .inr (.accum ‹_› (not_not.mp ‹_›) (not_not.mp ‹_›))
  | accum1 => exact gated_effect (by simp) h fun _ h => .inl (raiseBy_next h)
  | accuma => exact gated_effect (by simp) h fun _ h => .inl (raiseBy_next h)
  | cvtuv =>
    refine gated_effect (by simp) h fun _ h => ?_
    split at h
    · exact .inl (raiseBy_next h)
    · split at h
      · exact .inl (raiseBy_next h)
      · split at h
        · exact .inl (raiseBy_next h)
        · split at h
          · exact .inl (raiseBy_next h)
          · cases h; exact .inr (.cvtuv ‹_› (not_not.mp ‹_›) (not_not.mp ‹_›) ‹_›)
  | cvty k =>
    refine gated_effect (by simp) h fun _ h => ?_
    split at h
    · exact .inl (raiseBy_next h)
    · split at h
      · exact .inl (raiseBy_next h)
      · split at h
        · exact .inl (raiseBy_next h)
        · cases h; exact .inr (.cvty ‹_› (not_not.mp ‹_›) (not_not.mp ‹_›))

/-- The converse of the completed case: in the run state a command that passes its checks completes. -/
theorem exec_of_completes {i : Instr} {s t : State} (hr : s.status = 0#4) (hc : Completes s i t) : exec i s = .next t := by
  cases hc with
  | set h hw hn => refine (gate_run hr _).trans ?_; rw [h]; exact (if_neg hw).trans (if_neg hn)
  | g2l h => exact (gate_run hr _).trans (if_neg (by omega))
  | l2g h => exact (gate_run hr _).trans (if_neg (by omega))
  | rgb2y h => exact (gate_run hr _).trans (if_neg (not_not.mpr h))
  | rgb2u h => exact (gate_run hr _).trans (if_neg (not_not.mpr h))
  | rgb2v h => exact (gate_run hr _).trans (if_neg (not_not.mpr h))
  | accum hw h0 h1 =>
    exact (gate_run hr _).trans ((if_neg hw).trans ((if_neg (not_not.mpr h0)).trans (if_neg (not_not.mpr h1))))
  | cvtuv hn hu hv ho =>
    exact (gate_run hr _).trans ((if_neg hn).trans ((if_neg (not_not.mpr hu)).trans
      ((if_neg (not_not.mpr hv)).trans (if_neg ho))))
  | cvty hw hs hd =>
    exact (gate_run hr _).trans ((if_neg hw).trans ((if_neg (not_not.mpr hs)).trans (if_neg (not_not.mpr hd))))

/-- ACCUM leaves ⌈WIDTH/2⌉ entries (42_accumulate.md R111). -/
theorem accumulated_length (s : State) : s.accumulated.length = (s.width.toNat + 1) / 2 := by
  simp only [State.accumulated, List.length_append, List.length_map, List.length_range, Nat.shiftRight_eq_div_pow]
  split <;> simp <;> omega

/-- Everything a command word can do: a legal word is executed; an illegal one raises E_ILLEGAL in the run state and is
discarded in the fault state (30_encoding.md R67, 60_exceptions.md R166). -/
theorem issue_cases {w : Word} {s t : State} (h : issue w s = .next t) :
    (∃ i, decode w = .ok i ∧ exec i s = .next t) ∨
    (∃ e, decode w = .error e ∧ ((s.running ∧ t = s.raise .illegal w) ∨ (¬ s.running ∧ t = s))) := by
  unfold issue at h; split at h
  · exact .inl ⟨_, ‹_›, h⟩
  · rcases gate_cases h with ⟨hr, h⟩ | ⟨hr, h⟩ <;> cases h
    · exact .inr ⟨_, ‹_›, .inl ⟨hr, rfl⟩⟩
    · exact .inr ⟨_, ‹_›, .inr ⟨hr, rfl⟩⟩

/-- One inversion lemma for `step`: the configuration is well formed, and either nothing is pending and nothing
happens, or the oldest pending action is served with the port moved on. -/
theorem step_cases {s t : State} (h : step s = .next t) :
    s.cfg.wf = true ∧
      ((s.port = [] ∧ t = s) ∨ ∃ a rest, s.port = a :: rest ∧ serve a (s.withPort rest) = .next t) := by
  unfold step at h; split at h
  · refine ⟨‹_›, ?_⟩
    unfold servePort at h; split at h
    · cases h; exact .inl ⟨‹_›, rfl⟩
    · exact .inr ⟨_, _, ‹_›, h⟩
  · cases h

end Sys2Proof.Machine
end

