-- ==== Sys2Proof/Laws/Memory.lean ====
section
/-! SUPPORT. The laws of memory: every operation keeps the canonical form and the space's bounds, a read after a write
gives the value written, a write leaves every other address alone, and equal readings are equal memories. -/

namespace Sys2Proof.Machine.Memory

theorem wfFrom_mono {lo lo' : Nat} (h : lo' ≤ lo) {m : Memory} (hm : wfFrom lo m = true) : wfFrom lo' m = true := by
  cases m with
  | nil => rfl
  | cons c m =>
    simp only [wfFrom, Bool.and_eq_true, decide_eq_true_eq] at hm ⊢
    exact ⟨⟨by omega, hm.1.2⟩, hm.2⟩

theorem read_below {lo : Nat} {m : Memory} (hm : wfFrom lo m = true) {a : Nat} (h : a < lo) :
    m.read a = unlisted := by
  cases m with
  | nil => rfl
  | cons c m =>
    simp only [wfFrom, Bool.and_eq_true, decide_eq_true_eq] at hm
    have h1 : c.1 ≠ a := by omega
    have h2 : a < c.1 := by omega
    simp [read, h1, h2]

theorem read_cell_append {a : Nat} {v : Sample} {m : Memory} (hm : wfFrom (a + 1) m = true) (b : Nat) :
    read (cell a v ++ m) b = if b = a then v else read m b := by
  by_cases hv : v = unlisted
  · subst hv
    by_cases hb : b = a
    · subst hb; simp [cell, read_below hm]
    · simp [cell, hb]
  · by_cases hb : b = a
    · subst hb; simp [cell, hv, read]
    · have hab : ¬ a = b := fun h => hb h.symm
      by_cases hlt : b < a
      · simp [cell, hv, hb, read, hab, hlt, read_below hm (show b < a + 1 by omega)]
      · simp [cell, hv, hb, read, hab, hlt]

theorem wfFrom_cell_append {lo a : Nat} (h : lo ≤ a) {v : Sample} {m : Memory} (hm : wfFrom (a + 1) m = true) :
    wfFrom lo (cell a v ++ m) = true := by
  by_cases hv : v = unlisted
  · simpa [cell, hv] using wfFrom_mono (by omega) hm
  · simp [cell, hv, wfFrom, hm, h]

/-- The canonical form is kept by a write. -/
theorem wfFrom_write {m : Memory} {lo a : Nat} (h : lo ≤ a) (hm : wfFrom lo m = true) (v : Sample) :
    wfFrom lo (m.write a v) = true := by
  induction m generalizing lo with
  | nil => simpa [write] using wfFrom_cell_append (m := []) h rfl (v := v)
  | cons c m ih =>
    have hc := hm
    simp only [wfFrom, Bool.and_eq_true, decide_eq_true_eq] at hc
    obtain ⟨⟨hlo, hne⟩, hrest⟩ := hc
    rcases Nat.lt_trichotomy c.1 a with hlt | heq | hgt
    · have h1 : ¬ c.1 = a := by omega
      have h2 : ¬ a < c.1 := by omega
      simp [write, h1, h2, wfFrom, hlo, hne, ih (by omega) hrest]
    · subst heq
      simpa [write] using wfFrom_cell_append hlo hrest
    · have h1 : ¬ c.1 = a := by omega
      have h2 : wfFrom (a + 1) (c :: m) = true := by simp [wfFrom, hne, hrest]; omega
      simpa [write, h1, hgt] using wfFrom_cell_append h h2

theorem wf_write {m : Memory} (hm : m.wf = true) (a : Nat) (v : Sample) : (m.write a v).wf = true :=
  wfFrom_write (Nat.zero_le a) hm v

theorem read_write_from {m : Memory} {lo : Nat} (hm : wfFrom lo m = true) (a b : Nat) (v : Sample) :
    (m.write a v).read b = if b = a then v else m.read b := by
  induction m generalizing lo with
  | nil => simpa [write] using read_cell_append (m := []) rfl b (a := a) (v := v)
  | cons c m ih =>
    simp only [wfFrom, Bool.and_eq_true, decide_eq_true_eq] at hm
    obtain ⟨⟨hlo, hne⟩, hrest⟩ := hm
    rcases Nat.lt_trichotomy c.1 a with hlt | heq | hgt
    · have h1 : ¬ c.1 = a := by omega
      have h2 : ¬ a < c.1 := by omega
      simp only [write, h1, h2, if_false, read, ih hrest]
      by_cases hb : b = a
      · subst hb; simp [h1, h2]
      · simp [hb]
    · subst heq
      simp only [write, if_true, read_cell_append hrest]
      by_cases hb : b = c.1
      · simp [hb]
      · have hb' : ¬ c.1 = b := fun h => hb h.symm
        by_cases hlt : b < c.1
        · simp [hb, read, hb', hlt, read_below hrest (show b < c.1 + 1 by omega)]
        · simp [hb, read, hb', hlt]
    · have h1 : ¬ c.1 = a := by omega
      have h2 : wfFrom (a + 1) (c :: m) = true := by simp [wfFrom, hne, hrest]; omega
      simp only [write, h1, hgt, if_false, if_true, read_cell_append h2]

/-- A read after a write: the value written at its address, the old value everywhere else. -/
theorem read_write {m : Memory} (hm : m.wf = true) (a b : Nat) (v : Sample) :
    (m.write a v).read b = if b = a then v else m.read b := read_write_from hm a b v

theorem within_cell {size a : Nat} (h : a < size) (v : Sample) : within size (cell a v) = true := by
  by_cases hv : v = unlisted <;> simp [cell, hv, within, h]

theorem within_append {size : Nat} (m m' : Memory) : within size (m ++ m') = (within size m && within size m') := by
  simp [within]

/-- A write inside the space lists nothing outside it. -/
theorem within_write {size : Nat} {m : Memory} (hm : m.within size = true) {a : Nat} (h : a < size) (v : Sample) :
    (m.write a v).within size = true := by
  induction m with
  | nil => exact within_cell h v
  | cons c m ih =>
    have hc : c.1 < size ∧ within size m = true := by simpa [within] using hm
    have hcm : within size (c :: m) = true := hm
    simp only [write]
    split
    · rw [within_append, within_cell h, hc.2]; rfl
    · split
      · rw [within_append, within_cell h, hcm]; rfl
      · have := ih hc.2
        simp only [within, List.all_cons, Bool.and_eq_true, decide_eq_true_eq] at this ⊢
        exact ⟨hc.1, this⟩

/-! Pixels. -/

theorem wf_writePixel {m : Memory} (hm : m.wf = true) (a : Nat) (p : Pixel) : (m.writePixel a p).wf = true :=
  wf_write (wf_write (wf_write (wf_write hm _ _) _ _) _ _) _ _

theorem within_writePixel {size : Nat} {m : Memory} (hm : m.within (4 * size) = true) {a : Nat} (h : a < size)
    (p : Pixel) : (m.writePixel a p).within (4 * size) = true :=
  within_write (within_write (within_write (within_write hm (by omega) _) (by omega) _) (by omega) _) (by omega) _

theorem read_writePixel {m : Memory} (hm : m.wf = true) (a b : Nat) (p : Pixel) :
    (m.writePixel a p).read b =
      if b = 4 * a + 3 then p.a else if b = 4 * a + 2 then p.b else if b = 4 * a + 1 then p.g
      else if b = 4 * a then p.r else m.read b := by
  unfold writePixel
  rw [read_write (wf_write (wf_write (wf_write hm _ _) _ _) _ _), read_write (wf_write (wf_write hm _ _) _ _),
    read_write (wf_write hm _ _), read_write hm]

/-! Rows of Samples. -/

theorem wf_writeRow {m : Memory} (hm : m.wf = true) (base : Nat) (vs : List Sample) :
    (m.writeRow base vs).wf = true := by
  induction vs generalizing m base with
  | nil => exact hm
  | cons v vs ih => exact ih (wf_write hm base v) (base + 1)

theorem within_writeRow {size : Nat} {m : Memory} (hm : m.within size = true) {base : Nat} {vs : List Sample}
    (h : base + vs.length ≤ size) : (m.writeRow base vs).within size = true := by
  induction vs generalizing m base with
  | nil => exact hm
  | cons v vs ih =>
    simp only [List.length_cons] at h
    exact ih (within_write hm (by omega) v) (by omega)

/-- What a row leaves at each address: its own Sample inside the row, the old byte outside it. -/
theorem read_writeRow {m : Memory} (hm : m.wf = true) (base : Nat) (vs : List Sample) (b : Nat) :
    (m.writeRow base vs).read b = if base ≤ b then vs.getD (b - base) (m.read b) else m.read b := by
  induction vs generalizing m base with
  | nil => simp [writeRow]
  | cons v vs ih =>
    simp only [writeRow]
    rw [ih (wf_write hm base v), read_write hm]
    rcases Nat.lt_trichotomy b base with h | h | h
    · simp [show ¬ base + 1 ≤ b by omega, show ¬ b = base by omega, show ¬ base ≤ b by omega]
    · subst h; simp
    · obtain ⟨k, rfl⟩ : ∃ k, b = base + 1 + k := ⟨b - (base + 1), by omega⟩
      simp [show base + 1 ≤ base + 1 + k by omega, show base + 1 + k - base = k + 1 by omega,
        show base ≤ base + 1 + k by omega, show ¬ base + 1 + k = base by omega]

/-! The chroma rows of CVTUV. -/

theorem wf_writeChroma {m : Memory} (hm : m.wf = true) (u v : Nat) (es : List AccEntry) :
    (m.writeChroma u v es).wf = true := by
  induction es generalizing m u v with
  | nil => exact hm
  | cons e es ih => exact ih (wf_write (wf_write hm _ _) _ _) _ _

theorem within_writeChroma {size : Nat} {m : Memory} (hm : m.within size = true) {u v : Nat} {es : List AccEntry}
    (hu : u + es.length ≤ size) (hv : v + es.length ≤ size) : (m.writeChroma u v es).within size = true := by
  induction es generalizing m u v with
  | nil => exact hm
  | cons e es ih =>
    simp only [List.length_cons] at hu hv
    exact ih (within_write (within_write hm (by omega) _) (by omega) _) (by omega) (by omega)

/-- With disjoint ranges the writes of CVTUV are a row of U Samples and then a row of V Samples: their order is
unobservable (43_convert.md R132). -/
theorem read_writeChroma {m : Memory} (hm : m.wf = true) {u v : Nat} {es : List AccEntry}
    (hd : u + es.length ≤ v ∨ v + es.length ≤ u) (b : Nat) :
    (m.writeChroma u v es).read b =
      ((m.writeRow u (es.map AccEntry.u)).writeRow v (es.map AccEntry.v)).read b := by
  induction es generalizing m u v with
  | nil => rfl
  | cons e es ih =>
    simp only [List.length_cons] at hd
    have hm1 := wf_write hm u e.u
    have hm2 := wf_write hm1 v e.v
    simp only [writeChroma]
    rw [ih hm2 (by omega)]
    simp only [List.map_cons, writeRow]
    rw [read_writeRow (wf_writeRow hm2 _ _), read_writeRow hm2, read_write hm1, read_write hm,
      read_writeRow (wf_write (wf_writeRow hm1 _ _) _ _), read_write (wf_writeRow hm1 _ _), read_writeRow hm1,
      read_write hm]
    by_cases hbv : b = v
    · subst hbv
      have h1 : ¬ b + 1 ≤ b := by omega
      simp only [h1, if_false, if_true]
      by_cases hub : u + 1 ≤ b
      · have hlen : (List.map AccEntry.u es).length ≤ b - (u + 1) := by simp; omega
        simp only [hub, if_true]
        rw [List.getD_eq_default _ _ hlen]
      · simp [hub]
    · simp only [hbv, if_false]

/-! Canonical memories are determined by what they read. -/

theorem eq_of_read_from {m m' : Memory} {lo : Nat} (hm : wfFrom lo m = true) (hm' : wfFrom lo m' = true)
    (h : ∀ a, m.read a = m'.read a) : m = m' := by
  induction m generalizing m' lo with
  | nil =>
    cases m' with
    | nil => rfl
    | cons c m' =>
      have := h c.1
      simp only [wfFrom, Bool.and_eq_true] at hm'
      simp [read] at this
      simp [← this] at hm'
  | cons c m ih =>
    cases m' with
    | nil =>
      have := h c.1
      simp only [wfFrom, Bool.and_eq_true] at hm
      simp [read] at this
      simp [this] at hm
    | cons c' m' =>
      simp only [wfFrom, Bool.and_eq_true, decide_eq_true_eq] at hm hm'
      have key : c.1 = c'.1 := by
        rcases Nat.lt_trichotomy c.1 c'.1 with hlt | heq | hgt
        · have := h c.1
          simp [read, show ¬ c'.1 = c.1 by omega, hlt] at this
          simp [this] at hm
        · exact heq
        · have := h c'.1
          simp [read, show ¬ c.1 = c'.1 by omega, hgt] at this
          simp [← this] at hm'
      have hv : c.2 = c'.2 := by
        have := h c.1
        simpa [read, key] using this
      have hc : c = c' := Prod.ext key hv
      subst hc
      congr 1
      refine ih hm.2 hm'.2 fun a => ?_
      by_cases ha : c.1 < a
      · have := h a
        simpa [read, show ¬ c.1 = a by omega, show ¬ a < c.1 by omega] using this
      · rw [read_below hm.2 (by omega), read_below hm'.2 (by omega)]

/-- Equal readings are equal memories: the canonical form has one memory per contents. -/
theorem eq_of_read {m m' : Memory} (hm : m.wf = true) (hm' : m'.wf = true) (h : ∀ a, m.read a = m'.read a) : m = m' :=
  eq_of_read_from hm hm' h

end Sys2Proof.Machine.Memory
end

