-- ==== Sys2Proof/Laws/PerInstr.lean ====
section
/-! SUPPORT. What holds of every instruction as syntax, one lemma per constructor. Family TableRow: the word `encode`
gives stands in the instruction's own row of the opcode map, (w & mask) = match (30_encoding.md R65). -/

namespace Sys2Proof.Laws.TableRow

def Statement (i : Instr) : Prop := i.row.hit (encode i) = true

theorem set (reg : BitVec 4) (imm : BitVec 22) : Statement (.set reg imm) := by
  simp only [Statement, OpcodeRow.hit, Instr.row, encode, beq_iff_eq]
  have hop : opField (formatS opSet reg imm) = 1#6 := opField_formatS ..
  generalize formatS opSet reg imm = w at hop
  simp only [opField] at hop
  ext i hi
  by_cases h26 : i < 26
  · have : ∀ i < 26, (0xFC000000#32).getLsbD i = false ∧ (0x04000000#32).getLsbD i = false := by decide
    simp [← BitVec.getLsbD_eq_getElem, (this i h26).1, (this i h26).2]
  · have hk := congrArg (·.getLsbD (i - 26)) hop
    simp only [BitVec.getLsbD_extractLsb', show i - 26 < 6 by omega, decide_true, Bool.true_and,
      show 26 + (i - 26) = i by omega] at hk
    have : ∀ i < 32, 26 ≤ i → (0xFC000000#32).getLsbD i = true ∧ (0x04000000#32).getLsbD i = (1#6).getLsbD (i - 26) := by
      decide
    have hi' := this i hi (by omega)
    simp [← BitVec.getLsbD_eq_getElem, hk, hi'.1, hi'.2]

theorem reset : Statement .reset := rfl
theorem g2l : Statement .g2l := rfl
theorem l2g (k : BitVec 1) : Statement (.l2g k) := by unfold Statement; revert k; decide
theorem rgb2y : Statement .rgb2y := rfl
theorem rgb2u : Statement .rgb2u := rfl
theorem rgb2v : Statement .rgb2v := rfl
theorem accum : Statement .accum := rfl
theorem accum1 : Statement .accum1 := rfl
theorem accuma : Statement .accuma := rfl
theorem cvtuv : Statement .cvtuv := rfl
theorem cvty (k : BitVec 1) : Statement (.cvty k) := by unfold Statement; revert k; decide

end Sys2Proof.Laws.TableRow
end

