-- ==== Sys2Proof/Machine/Assembler.lean ====
section
/-! DEFINITION. The assembler of 30_encoding.md R71, R72: one line of text to the commands it stands for. No part of the
block: "the block never sees" a pseudo-command. A text is a list of characters. -/

namespace Sys2Proof

/-- A word or a comma of a line. -/
abbrev Token := List Char

/-- A token unless it is empty. -/
def Token.flush (t : Token) : List Token := if t.isEmpty then [] else [t]

/-- The tokens of a line, `cur` being the word read so far; a comma is a token, `;` starts a comment (R71). DESIGN
CHOICE (log 20): space, tab and carriage return are the blanks that separate words; R71 names none. -/
def tokensFrom : Token → List Char → List Token
  | cur, [] => cur.flush
  | cur, c :: cs =>
    if c = ';' then cur.flush
    else if c = ' ' ∨ c = '\t' ∨ c = '\r' then cur.flush ++ tokensFrom [] cs
    else if c = ',' then cur.flush ++ [','] :: tokensFrom [] cs
    else tokensFrom (cur ++ [c]) cs

/-- Comma-separated operands (R71). -/
def operandsOf : List Token → Option (List Token)
  | [] => some []
  | [t] => if t = [','] then none else some [t]
  | t :: c :: rest =>
    if t = [','] ∨ c ≠ [','] ∨ rest.isEmpty then none else (operandsOf rest).map (t :: ·)

/-- A digit's value in a base of at most 16. -/
def digitOf (base : Nat) (c : Char) : Option Nat :=
  let n := c.toNat
  let d := if 48 ≤ n ∧ n ≤ 57 then n - 48 else if 97 ≤ n ∧ n ≤ 102 then n - 87
    else if 65 ≤ n ∧ n ≤ 70 then n - 55 else 16
  if d < base then some d else none

/-- Digits after the value read so far. -/
def digitsFrom (base : Nat) : Nat → List Char → Option Nat
  | v, [] => some v
  | v, c :: cs => match digitOf base c with
    | some d => digitsFrom base (v * base + d) cs
    | none => none

/-- A number: "decimal, or hexadecimal with the prefix `0x`" (R71). DESIGN CHOICE (log 20): leading zeros, and
hexadecimal digits in either case, are read; R71 speaks of neither. -/
def numberOf (t : Token) : Option Nat :=
  match t with
  | [] => none
  | ['0', 'x'] => none
  | '0' :: 'x' :: cs => digitsFrom 16 0 cs
  | cs => digitsFrom 10 0 cs

/-- The register operands `x0` .. `x15` (R71), by number. -/
def numberedRegisters : List String :=
  ["x0", "x1", "x2", "x3", "x4", "x5", "x6", "x7", "x8", "x9", "x10", "x11", "x12", "x13", "x14", "x15"]

/-- The place of a token in a list of names, as a register number. -/
def placeIn (names : List String) (t : Token) : Option (BitVec 4) :=
  (names.findIdx? (fun n => n.toList == t)).map (BitVec.ofNat 4)

/-- A register, by name or as `x0` .. `x15`, spelt as R71 lists them: `x07` is none. -/
def registerOf (t : Token) : Option (BitVec 4) := placeIn registerNames t <|> placeIn numberedRegisters t

/-- The operand of L2G and CVTY: k ∈ (0, 1). -/
def bitOf (t : Token) : Option (BitVec 1) :=
  match numberOf t with
  | some n => if n < 2 then some (BitVec.ofNat 1 n) else none
  | none => none

/-- A 22-bit operand; "the assembler rejects a larger number" (R71). -/
def immediateOf (t : Token) : Option (BitVec 22) := (numberOf t).bind immediate

/-- A mnemonic and its operands to the commands they stand for (R71, R72). -/
def assembleCommand (m : String) (ops : List Token) : Option (List Instr) :=
  match ops with
  | [] =>
    if m = "RESET" then some [.reset] else if m = "G2L" then some [.g2l] else if m = "RGB2Y" then some [.rgb2y]
    else if m = "RGB2U" then some [.rgb2u] else if m = "RGB2V" then some [.rgb2v] else if m = "ACCUM" then some [.accum]
    else if m = "ACCUM1" then some [.accum1] else if m = "ACCUMA" then some [.accuma]
    else if m = "CVTUV" then some [.cvtuv] else if m = "CVTPAIR" then some pseudoCvtPair
    else if m = "ABORT" then some pseudoAbort else none
  | [k] =>
    if m = "L2G" then (bitOf k).map (fun k => [.l2g k]) else if m = "CVTY" then (bitOf k).map (fun k => [.cvty k])
    else none
  | [r, n] =>
    if m = "SET" then (registerOf r).bind (fun r => (numberOf n).bind (fun n => (assembleSet r n).map (fun i => [i])))
    else none
  | [r, g, b] =>
    if m = "SETRGB" then (immediateOf r).bind fun r => (immediateOf g).bind fun g => (immediateOf b).map fun b =>
      pseudoSetRgb r g b
    else none
  | [s0, s1, y0, y1, u, v] =>
    if m = "SETPAIR" then (immediateOf s0).bind fun s0 => (immediateOf s1).bind fun s1 => (immediateOf y0).bind fun y0 =>
      (immediateOf y1).bind fun y1 => (immediateOf u).bind fun u => (immediateOf v).map fun v =>
        pseudoSetPair s0 s1 y0 y1 u v
    else none
  | _ => none

/-- One line (R71): "one command per line". An empty line or a comment stands for no command. -/
def assembleLine (cs : List Char) : Option (List Instr) :=
  match tokensFrom [] cs with
  | [] => some []
  | m :: rest => (operandsOf rest).bind (assembleCommand (String.ofList m))

/-- A program: its lines in order; one line that does not assemble rejects it. -/
def assemble : List (List Char) → Option (List Instr)
  | [] => some []
  | l :: ls => (assembleLine l).bind fun is => (assemble ls).map (is ++ ·)

end Sys2Proof
end

