-- ==== Sys2Proof/Tests/Slice0.lean ====
section
/-! SUPPORT. Tests. Expected results are those of 30_encoding.md R73 and 95_test_vectors.md (the vector's number stands
in the docstring), never the model's own answers. The second half holds one witness for every statement that has
hypotheses: a concrete state and operands that meet them, each clause at a boundary value. -/

namespace Sys2Proof.Tests

open Sys2Proof.Machine Sys2Proof.Spec

-- Proofs of this file are checked one after another: each `decide +kernel` would otherwise hold a thread of its own.
set_option Elab.async false

/-! Well-formedness: one ill-formed term for each check. -/

theorem test_wf_set_register_fifteen : (Instr.set 15#4 0#22).wf = false ∧ (Instr.set 14#4 0#22).wf = true := by decide

theorem test_wf_config_ref_and_lin : Config.ref.wf = true ∧ Config.lin.wf = true := by decide +kernel

theorem test_wf_config_table_sizes :
    ({ Config.ref with g2l := [0] }).tablesSized = false ∧ ({ Config.ref with tabSize := 31 }).tablesSized = false ∧
    ({ Config.ref with tabSize := 0, l2g := [0] }).tablesSized = false := by decide +kernel

theorem test_wf_config_sizes :
    ({ Config.ref with wmax := 0 }).sizesInRange = false ∧ ({ Config.ref with wmax := 16384 }).sizesInRange = false ∧
    ({ Config.ref with srcSize := 0 }).sizesInRange = false ∧
    ({ Config.ref with srcSize := 4194305 }).sizesInRange = false ∧
    ({ Config.ref with dstSize := 0 }).sizesInRange = false ∧
    ({ Config.ref with dstSize := 4194305 }).sizesInRange = false := by decide

/-- WF1. -/
theorem test_wf_config_tab_fix :
    ({ Config.ref with tabFix := 0 }).wf1 = false ∧ ({ Config.ref with tabFix := 15 }).wf1 = false := by decide

/-- WF2: 4·4096 >> 9 = 32 is not below 32. -/
theorem test_wf_config_position : ({ Config.ref with g2l := [4096] }).wf2 = false := by decide

/-- WF3. -/
theorem test_wf_config_entries :
    ({ Config.ref with g2l := [65536] }).wf3 = false ∧ ({ Config.ref with l2g := [16384] }).wf3 = false := by
  decide +kernel

theorem test_wf_memory :
    Memory.wf [(3, 1#8), (3, 2#8)] = false ∧ Memory.wf [(4, 1#8), (3, 2#8)] = false ∧ Memory.wf [(3, 0#8)] = false ∧
    Memory.wf [(3, 1#8), (4, 2#8)] = true := by decide

/-- Reset leaves nothing listed in either memory, in canonical form. -/
theorem test_reset_memory : State.reset.src.wf = true ∧ State.reset.dst.wf = true := by decide

/-! Decoding and encoding: the words of 95_test_vectors.md S2, fields written out as op ‖ reg ‖ imm, op ‖ 0 ‖ k, op ‖ 0. -/

/-- S2.1, S2.12, S2.14: SET. -/
theorem test_decode_set :
    decode (0b000001#6 ++ 0b0000#4 ++ 4#22) = .ok (.set 0#4 4#22) ∧ decode 0x04000004#32 = .ok (.set 0#4 4#22) ∧
    decode 0x06820000#32 = .ok (.set 10#4 131072#22) ∧ decode 0x047FFFFF#32 = .ok (.set 1#4 4194303#22) ∧
    encode (.set 6#4 8#22) = 0x05800008#32 := by decide

/-- S2.15: RESET. -/
theorem test_decode_reset :
    decode (0b000010#6 ++ 0#26) = .ok .reset ∧ decode 0x08000000#32 = .ok .reset ∧ encode .reset = 0x08000000#32 := by
  decide

/-- S2.16, S2.17: G2L, L2G. -/
theorem test_decode_gamma :
    decode (0b001000#6 ++ 0#26) = .ok .g2l ∧ encode .g2l = 0x20000000#32 ∧
    decode (0b001001#6 ++ 0#25 ++ 0b1#1) = .ok (.l2g 1#1) ∧ decode 0x24000000#32 = .ok (.l2g 0#1) ∧
    encode (.l2g 1#1) = 0x24000001#32 := by decide

/-- S2.18: RGB2Y, RGB2U, RGB2V. -/
theorem test_decode_matrix :
    decode (0b001010#6 ++ 0#26) = .ok .rgb2y ∧ decode (0b001011#6 ++ 0#26) = .ok .rgb2u ∧
    decode (0b001100#6 ++ 0#26) = .ok .rgb2v ∧ encode .rgb2y = 0x28000000#32 ∧ encode .rgb2u = 0x2C000000#32 ∧
    encode .rgb2v = 0x30000000#32 := by decide

/-- S2.19, S2.20: ACCUM, ACCUM1, ACCUMA. -/
theorem test_decode_accumulate :
    decode (0b010000#6 ++ 0#26) = .ok .accum ∧ decode (0b010001#6 ++ 0#26) = .ok .accum1 ∧
    decode (0b010010#6 ++ 0#26) = .ok .accuma ∧ encode .accum = 0x40000000#32 ∧ encode .accum1 = 0x44000000#32 ∧
    encode .accuma = 0x48000000#32 := by decide

/-- S2.21, S2.22: CVTUV, CVTY. -/
theorem test_decode_convert :
    decode (0b010100#6 ++ 0#26) = .ok .cvtuv ∧ decode (0b010101#6 ++ 0#25 ++ 0b0#1) = .ok (.cvty 0#1) ∧
    decode 0x54000001#32 = .ok (.cvty 1#1) ∧ encode .cvtuv = 0x50000000#32 ∧ encode (.cvty 1#1) = 0x54000001#32 := by
  decide

/-- S2.30 to S2.37: the words that do not decode. -/
theorem test_decode_illegal :
    [0x00000000#32, 0xFFFFFFFF#32, 0x40000001#32, 0x54000002#32, 0x08000001#32, 0x07C00000#32, 0x0C000000#32,
      0x24000002#32].all (fun w => (decode w).toOption.isNone) = true := by decide

/-- S2.23 and R72: the pseudo-commands. -/
theorem test_pseudo_commands :
    pseudoCvtPair.map encode = [0x40000000#32, 0x50000000#32, 0x54000000#32, 0x54000001#32] ∧
    (pseudoSetRgb 255 255 255).map encode = [0x05C000FF#32, 0x060000FF#32, 0x064000FF#32] ∧
    pseudoAbort.map encode = [0x08000000#32] := by decide

/-- The second row pair of P3 as R56 lays it out, and a base that SET cannot carry (log 21). -/
theorem test_host_row_pair :
    (hostRowPair 4 1 0 0 16 20).map (·.map encode) =
      some [0x04000004#32, 0x04400008#32, 0x0480000C#32, 0x04C00008#32, 0x0500000C#32, 0x05400012#32, 0x05800016#32] ∧
    hostRowPair 4 1 0 0 16 4194302 = none := by decide

/-- S2.1, S2.22 as the assembler writes them (R71). -/
theorem test_asm : (Instr.set 0 4).asm = "SET WIDTH, 4" ∧ (Instr.cvty 1).asm = "CVTY 1" ∧
    assembleSet 0 4194304 = none := by decide

/-- P2's and P1's text, a comment, and lines the assembler rejects (R71, R72). -/
theorem test_assemble :
    assemble ["SET WIDTH, 3".toList, "CVTPAIR  ; ACCUM  CVTUV  CVTY 0  CVTY 1".toList, "SETRGB 0xff, 255, 610".toList] =
      some [.set 0 3, .accum, .cvtuv, .cvty 0, .cvty 1, .set 7 255, .set 8 255, .set 9 610] ∧
    assembleLine "SET x15, 0".toList = some [.set 15 0] ∧
    assembleLine "SET x7,\t1\r".toList = some [.set 7 1] ∧ assembleLine "SET x07, 1".toList = none ∧ assembleLine "CVTY 2".toList = none ∧
    assembleLine "SET A0, 4194304".toList = none ∧ assembleLine "SET A0".toList = none := by decide +kernel

theorem test_decode_table_word :
    decodeTableWord 32 0x04000004 = some (.set 0 4) ∧ decodeTableWord 32 0x54000001 = some (.cvty 1) ∧
    decodeTableWord 32 0 = none := by decide

/-! Steps. -/

/-- The next state, if there is one. -/
def next? (r : Result) : Option State :=
  match r with
  | .next t => some t
  | .fault _ => none
  | .refused _ => none

/-- Pixels (r, g, b, a) from index `i` on. -/
def pixelsFrom : Nat → List (Nat × Nat × Nat × Nat) → Memory
  | _, [] => []
  | i, (r, g, b, a) :: ps =>
    (pixelsFrom (i + 1) ps).writePixel i ⟨BitVec.ofNat 8 r, BitVec.ofNat 8 g, BitVec.ofNat 8 b, BitVec.ofNat 8 a⟩

/-- SRC of S6.1. -/
def srcS6 : Memory :=
  pixelsFrom 0 [(1, 2, 3, 255), (5, 6, 7, 0), (200, 100, 50, 9), (9, 10, 11, 255), (13, 14, 15, 1), (7, 0, 255, 3)]

/-- The configured state of P2 before CVTPAIR, with SRC of S6.1. -/
def sP2 (c : Config) : State :=
  { State.resetWith c srcS6 [] with width := 3, src1 := 3, ydst1 := 3, udst := 6, vdst := 8 }

/-- An entry from numbers. -/
def entry (r g b : Nat) : AccEntry := ⟨BitVec.ofNat 16 r, BitVec.ofNat 16 g, BitVec.ofNat 16 b⟩

/-- S3.1, S3.2. -/
theorem test_set_width :
    (next? (exec (.set 0 16) State.reset)).map (·.width) = some 16#14 ∧
    (next? (exec (.set 0 17) State.reset)).map (fun t => (t.width, t.status, t.ecmd)) = some (0#14, 3#4, 0x04000011#32) := by
  decide

/-- S3.5, S3.7. -/
theorem test_set_faults :
    (next? (exec (.set 10 262144) State.reset)).map (fun t => (t.rnd, t.status, t.ecmd)) = some (0#18, 2#4, 0x06840000#32) ∧
    (next? (exec (.set 12 0) State.reset)).map (fun t => (t.status, t.ecmd)) = some (2#4, 0x07000000#32) := by
  decide

/-- S9.3, and R83: DST is kept. -/
theorem test_reset_from_fault :
    next? (exec .reset { State.reset with status := 7, ecmd := 1, width := 4, res := 9, acc := [entry 1 2 3], dst := [(5, 1#8)] }) =
      some { State.reset with dst := [(5, 1#8)] } := by decide +kernel

/-- S4.30, S4.32. -/
theorem test_g2l :
    (next? (exec .g2l { State.reset with a0 := 128 })).map (·.res) = some 2359#22 ∧
    (next? (exec .g2l { State.reset with a0 := 256 })).map (fun t => (t.res, t.status, t.ecmd)) =
      some (0#22, 2#4, 0x20000000#32) := by decide

/-- S4.34, S4.38. -/
theorem test_l2g :
    (next? (exec (.l2g 1) { State.reset with a0 := 4302 })).map (·.res) = some 457#22 ∧
    (next? (exec (.l2g 1) { State.reset with a0 := 8192 })).map (fun t => (t.status, t.ecmd)) =
      some (2#4, 0x24000001#32) := by decide

/-- S4.2, S4.5, S4.8, S4.12, S4.15. -/
theorem test_linear_to_gamma :
    linearToGamma .ref 196 0 = 5 ∧ linearToGamma .ref 1023 0 = 32 ∧ linearToGamma .ref 8397 0 = 442 ∧
    linearToGamma .ref 16383 0 = 1020 ∧ linearToGamma .lin 8 0 = 1 := by decide

/-- S7.40, S7.43. -/
theorem test_rgb2y :
    (next? (exec .rgb2y { State.reset with a0 := 255, a1 := 255, a2 := 255 })).map (·.res) = some 235#22 ∧
    (next? (exec .rgb2y { State.reset with a1 := 256 })).map (fun t => (t.res, t.status, t.ecmd)) =
      some (0#22, 2#4, 0x28000000#32) := by decide

/-- P1, S7.45, S7.44. -/
theorem test_rgb2u :
    (next? (exec .rgb2u { State.reset with a0 := 414, a1 := 200, a2 := 610, rnd := 131072 })).map (·.res) = some 165#22 ∧
    (next? (exec .rgb2u { State.reset with a2 := 65535, rnd := 131072 })).map (·.res) = some 255#22 ∧
    (next? (exec .rgb2u { State.reset with a2 := 65536 })).map (·.ecmd) = some 0x2C000000#32 := by decide

/-- P1, and S7.27: the floor shift on a negative sum. -/
theorem test_rgb2v :
    (next? (exec .rgb2v { State.reset with a0 := 414, a1 := 200, a2 := 610, rnd := 131072 })).map (·.res) = some 144#22 ∧
    (next? (exec .rgb2v { State.reset with a1 := 1766, rnd := 131072 })).map (·.res) = some 0#22 := by decide

/-- S6.1, LIN and REF: a full block and a tail column. -/
theorem test_accum :
    (next? (exec .accum (sP2 .lin))).map (·.acc) = some [entry 28 32 36, entry 414 200 610] ∧
    (next? (exec .accum (sP2 .ref))).map (fun t => (t.acc, t.accn)) =
      some ([entry 27 31 35, entry 366 168 580], 2#14) := by decide

/-- S9.4: SRC0 + WIDTH = SRC_SIZE + 1 faults and writes nothing else. -/
theorem test_accum_bounds :
    next? (exec .accum { sP2 .ref with width := 4, src0 := 13 }) =
      some { sP2 .ref with width := 4, src0 := 13, status := 4, ecmd := 0x40000000#32 } := by decide +kernel

/-- S9.1. -/
theorem test_accum1 : next? (exec .accum1 State.reset) = some { State.reset with status := 7, ecmd := 0x44000000#32 } := by
  decide +kernel

theorem test_accuma : next? (exec .accuma State.reset) = some { State.reset with status := 7, ecmd := 0x48000000#32 } := by
  decide +kernel

/-- S8.1. -/
theorem test_cvtuv :
    (next? (exec .cvtuv { sP2 .lin with acc := [entry 28 32 36, entry 414 200 610] })).map (·.dst) =
      some [(6, 129#8), (7, 165#8), (8, 127#8), (9, 144#8)] := by decide

/-- S8.4 (ranges one apart overlap), S8.7 (bounds before overlap), S8.6 (no entry). -/
theorem test_cvtuv_faults :
    (next? (exec .cvtuv { State.reset with acc := [entry 1 1 1, entry 1 1 1], vdst := 1 })).map (·.status) = some 5#4 ∧
    (next? (exec .cvtuv { State.reset with acc := [entry 1 1 1, entry 1 1 1], udst := 31, vdst := 31 })).map (·.status) =
      some 4#4 ∧
    (next? (exec .cvtuv State.reset)).map (fun t => (t.status, t.ecmd)) = some (6#4, 0x50000000#32) := by decide

/-- S8.2: both rows, each with its own bases. -/
theorem test_cvty :
    (next? (exec (.cvty 0) (sP2 .ref))).map (·.dst) = some [(0, 18#8), (1, 21#8), (2, 123#8)] ∧
    (next? (exec (.cvty 1) (sP2 .ref))).map (·.dst) = some [(3, 24#8), (4, 28#8), (5, 43#8)] := by decide

/-- S8.5, S8.6. -/
theorem test_cvty_faults :
    (next? (exec (.cvty 1) { State.reset with width := 4, ydst1 := 29 })).map (fun t => (t.dst, t.status, t.ecmd)) =
      some ([], 4#4, 0x54000001#32) ∧
    (next? (exec (.cvty 0) State.reset)).map (fun t => (t.status, t.ecmd)) = some (3#4, 0x54000000#32) := by decide

/-- S9.2: the fault state discards a legal command, and S9.3 the word 0x08000001. -/
theorem test_step_fault_state :
    next? (step { State.reset with status := 6, ecmd := 0x50000000#32, port := [.command 0x04000001#32] }) =
      some { State.reset with status := 6, ecmd := 0x50000000#32 } ∧
    next? (step { State.reset with status := 6, ecmd := 0x50000000#32, port := [.command 0x08000001#32] }) =
      some { State.reset with status := 6, ecmd := 0x50000000#32 } := by decide +kernel

/-- S2.34: in the run state 0x08000001 faults and does not reset. -/
theorem test_step_illegal :
    next? (step { State.reset with a0 := 7, port := [.command 0x08000001#32] }) =
      some { State.reset with a0 := 7, status := 1, ecmd := 0x08000001#32 } := by decide +kernel

/-- The first instruction after reset: S4.39, S7.41, S7.42. -/
theorem test_step_first_instruction :
    (next? (step (State.reset.withFetchWord 32 0x20000000))).map (·.res) = some 0#22 ∧
    (next? (step (State.reset.withFetchWord 32 0x28000000))).map (·.res) = some 16#22 ∧
    (next? (step (State.reset.withFetchWord 32 0x2C000000))).map (·.res) = some 128#22 := by decide +kernel

/-- R57, R43: a pixel written and read back as a word, alpha in bits 31:24. -/
theorem test_step_host_pixel :
    (next? (step { State.reset with port := [.writeSrc 15 ⟨1, 2, 3, 4⟩] })).map (·.src) =
      some [(60, 1#8), (61, 2#8), (62, 3#8), (63, 4#8)] ∧
    (HostAction.readSrc 15).reply { State.reset with src := [(60, 1#8), (61, 2#8), (62, 3#8), (63, 4#8)] } =
      some 0x04030201#32 := by decide +kernel

/-! Witnesses, one or more for each statement that has hypotheses. -/

/-- A result whose next state passes a check, as the statements write it. -/
theorem next_with {r : Result} {P : State → Bool} (h : (next? r).any P = true) : ∃ t, r = .next t ∧ P t = true := by
  cases r with
  | next t => exact ⟨t, rfl, h⟩
  | fault f => cases f
  | refused f => cases h

/-- The configuration of every witness below that does not name another is well formed. -/
theorem witness_cfg : State.reset.cfg.wf = true := by decide +kernel

theorem witness_DecodeOfEncodeIsTheInstruction : (Instr.set 14#4 0x3FFFFF#22).wf = true ∧ (Instr.cvty 1#1).wf = true := by
  decide

theorem witness_EncodeOfDecodeIsTheWord :
    decode 0x07BFFFFF#32 = .ok (.set 14#4 0x3FFFFF#22) ∧ decode 0x24000001#32 = .ok (.l2g 1#1) := by decide

theorem witness_OpcodeMapDecidesWhatDecodes :
    decode 0x54000001#32 = .ok (.cvty 1#1) ∧
    (Instr.row .reset ∈ opcodeTable ∧ (Instr.row .reset).hit 0x08000000#32 = true ∧
      0x08000000#32 &&& 0xFFC00000#32 ≠ 0x07C00000#32) ∧
    (Instr.row (.set 0 0) ∈ opcodeTable ∧ (Instr.row (.set 0 0)).hit 0x07BFFFFF#32 = true ∧
      0x07BFFFFF#32 &&& 0xFFC00000#32 ≠ 0x07C00000#32) := by decide

theorem witness_StepRunsTheDecodedCommand :
    State.reset.cfg.wf = true ∧
    (State.reset.withPort [.command 0x20000000#32, .hardReset]).port = .command 0x20000000#32 :: [.hardReset] ∧
    decode 0x20000000#32 = .ok .g2l ∧ decode (BitVec.ofNat 32 0x20000000) = .ok .g2l :=
  ⟨witness_cfg, rfl, by decide, by decide⟩

/-- Both forms of an illegal word, and the first and the last read-only register. -/
theorem witness_IllegalWordRaisesEIllegal :
    (State.reset.cfg.wf = true ∧ State.reset.status = 0#4) ∧
    (∀ w, (State.reset.withPort [.command w]).port = .command w :: []) ∧
    (∀ r ∈ opcodeTable, r.hit 0x08000001#32 = false) ∧ (∀ r ∈ opcodeTable, r.hit 0x00000000#32 = false) ∧
    0x07FFFFFF#32 &&& 0xFFC00000#32 = 0x07C00000#32 ∧
    11#4 ∈ [11#4, 12#4, 13#4, 14#4] ∧ 0x06C00001#32 = setWord 11#4 1#22 ∧
    14#4 ∈ [11#4, 12#4, 13#4, 14#4] ∧ 0x07800000#32 = setWord 14#4 0#22 :=
  ⟨⟨witness_cfg, rfl⟩, fun _ => rfl, by decide, by decide, by decide, by decide, by decide, by decide, by decide⟩

theorem witness_FaultStateDiscardsEveryWordButReset :
    let s := { State.reset with status := 7#4, port := [.command 0x08000001#32] }
    let s' := { State.reset with status := 1#4, port := [.writeDst 31 5#8] }
    (s.cfg.wf = true ∧ s.status ≠ 0#4 ∧ s.port = .command 0x08000001#32 :: [] ∧ 0x08000001#32 ≠ 0x08000000#32) ∧
    (s'.cfg.wf = true ∧ s'.status ≠ 0#4 ∧ s'.port = .writeDst 31 5#8 :: [] ∧
      (∀ w, HostAction.writeDst 31 5#8 ≠ .command w) ∧ HostAction.writeDst 31 5#8 ≠ .hardReset ∧
      (∃ t, step { s' with status := 0#4 } = .next t ∧ (t.dst == [(31, 5#8)]) = true) ∧
      HostAction.writeDst 31 5#8 ≠ .readReg 12#4) ∧
    ({ s with port := [.readReg 12#4] }).port = .readReg 12#4 :: [] :=
  ⟨⟨witness_cfg, by decide, rfl, by decide⟩, ⟨witness_cfg, by decide, rfl, nofun, nofun,
    next_with (P := fun t => t.dst == [(31, 5#8)]) (by decide +kernel), nofun⟩, rfl⟩

theorem witness_EveryCommandWordHasASuccessor :
    State.reset.cfg.wf = true ∧
    (State.reset.withPort [.command 0xFFFFFFFF#32]).port = .command 0xFFFFFFFF#32 :: [] := ⟨witness_cfg, rfl⟩

/-- Each clause on the first value past its bound. -/
theorem witness_IllFormedConfigIsRefused :
    ({ Config.ref with tabFix := 0 }).tabFix < 1 ∧ 14 < ({ Config.ref with tabFix := 15 }).tabFix ∧
    (∃ e ∈ ({ Config.ref with g2l := [4096] }).g2l, 32 ≤ 4 * e / 2 ^ (7 + 2)) ∧
    (∃ e ∈ ({ Config.ref with g2l := [65536] }).g2l, 65535 < e) ∧
    (∃ e ∈ ({ Config.ref with l2g := [16384] }).l2g, 16383 < e) := by decide

theorem witness_EmptyPortStepChangesNothing : State.reset.cfg.wf = true ∧ State.reset.port = [] := ⟨witness_cfg, rfl⟩

/-- WMAX = 16: the clauses for WIDTH at 0, 17, 1 and 16, those for RND at 2^18 and 2^18 − 1, the read-only registers at
11 and 14; a clause for another register holds of any imm. -/
theorem witness_SetFollowsItsPseudocode :
    (State.reset.cfg.wf = true ∧ State.reset.status = 0#4) ∧
    ((11#4 = 11#4 ∨ 11#4 = 12#4 ∨ 11#4 = 13#4 ∨ 11#4 = 14#4) ∧ (14#4 = 11#4 ∨ 14#4 = 12#4 ∨ 14#4 = 13#4 ∨ 14#4 = 14#4)) ∧
    ((0#22).toNat = 0 ∨ State.reset.cfg.wmax < (0#22).toNat) ∧
    ((17#22).toNat = 0 ∨ State.reset.cfg.wmax < (17#22).toNat) ∧
    2 ^ 18 ≤ (0x40000#22).toNat ∧
    ((1#22).toNat ≠ 0 ∧ (1#22).toNat ≤ State.reset.cfg.wmax) ∧
    ((16#22).toNat ≠ 0 ∧ (16#22).toNat ≤ State.reset.cfg.wmax) ∧
    (0x3FFFF#22).toNat < 2 ^ 18 := ⟨⟨witness_cfg, rfl⟩, by decide⟩

theorem witness_ResetCommandClearsTheBlock :
    let s (e : BitVec 4) := { State.reset with status := e, port := [.command 0x08000001#32] }
    0x08000001#32 &&& 0xFC000000#32 = 0x08000000#32 ∧ 0x08000001#32 ≠ 0x08000000#32 ∧
    (∀ e, (s e).cfg.wf = true ∧ (s e).port = .command 0x08000001#32 :: []) ∧ (s 0).status = 0#4 ∧ (s 1).status ≠ 0#4 :=
  ⟨by decide, by decide, fun _ => ⟨witness_cfg, rfl⟩, rfl, by decide⟩

theorem witness_BothResetsLeaveTheResetState :
    let s := { State.reset with status := 3#4, width := 5, port := [.hardReset] }
    let s' := { State.reset with a0 := 9, port := [.command 0x08000000#32] }
    s.cfg.wf = true ∧ s.port = .hardReset :: [] ∧ s'.cfg.wf = true ∧ s'.port = .command 0x08000000#32 :: [] :=
  ⟨witness_cfg, rfl, witness_cfg, rfl⟩

theorem witness_G2lFollowsItsRule :
    (State.reset.cfg.wf = true ∧ State.reset.status = 0#4) ∧
    255 < ({ State.reset with a0 := 256#22 }).a0.toNat ∧ ({ State.reset with a0 := 255#22 }).a0.toNat ≤ 255 ∧
    State.reset.cfg.g2l = Config.refG2l := ⟨⟨witness_cfg, rfl⟩, by decide, by decide, rfl⟩

/-- The last position in the table and the first past it, for both shifts. -/
theorem witness_L2gFollowsItsRule :
    (State.reset.cfg.wf = true ∧ State.reset.status = 0#4) ∧
    State.reset.cfg.tabSize ≤ (16384#22).toNat * 2 ^ (0#1).toNat / 2 ^ (State.reset.cfg.tabFix + 2) ∧
    (16383#22).toNat * 2 ^ (0#1).toNat / 2 ^ (State.reset.cfg.tabFix + 2) < State.reset.cfg.tabSize ∧
    State.reset.cfg.tabSize ≤ (8192#22).toNat * 2 ^ (1#1).toNat / 2 ^ (State.reset.cfg.tabFix + 2) ∧
    (8191#22).toNat * 2 ^ (1#1).toNat / 2 ^ (State.reset.cfg.tabFix + 2) < State.reset.cfg.tabSize :=
  ⟨⟨witness_cfg, rfl⟩, by decide, by decide, by decide, by decide⟩

theorem witness_LinearToGammaProperties :
    1 ≤ Config.ref.tabFix ∧ 256 * 2 ^ 1 % 2 ^ (Config.ref.tabFix + 2) = 0 ∧
    (∀ m n, m ≤ n → n ≤ Config.ref.tabSize → Config.ref.l2g.getD m 0 ≤ Config.ref.l2g.getD n 0) ∧
    511 * 2 ^ 0 ≤ 8191 * 2 ^ 1 ∧ 8191 * 2 ^ 1 / 2 ^ (Config.ref.tabFix + 2) < Config.ref.tabSize := by
  refine ⟨by decide, by decide, fun m n hmn hn => ?_, by decide, by decide⟩
  have key : ∀ n, n ≤ 32 → ∀ m, m ≤ n → Config.refL2g.getD m 0 ≤ Config.refL2g.getD n 0 := by decide +kernel
  exact key n hn m hmn

theorem witness_Rgb2yFollowsItsRule :
    State.reset.status = 0#4 ∧ 255 < (256#22).toNat ∧ (255#22).toNat ≤ 255 := by decide

theorem witness_Rgb2uFollowsItsRule :
    State.reset.status = 0#4 ∧ 65535 < (65536#22).toNat ∧ (65535#22).toNat ≤ 65535 := by decide

theorem witness_Rgb2vFollowsItsRule :
    State.reset.status = 0#4 ∧ 65535 < (65536#22).toNat ∧ (65535#22).toNat ≤ 65535 := by decide

theorem witness_LumaStaysInRange : 255 ≤ 255 ∧ 262143 < 2 ^ 18 := by decide

theorem witness_ChromaRangeAndGrey : 1020 ≤ 1020 ∧ 262143 < 2 ^ 18 := by decide

theorem witness_MatrixSumsFitThirtyTwoBits : 255 ≤ 255 ∧ 65535 ≤ 65535 ∧ 262143 < 2 ^ 18 := by decide

/-- WIDTH 0; each source one past its bound; both sources ending exactly at SRC_SIZE = 16, WIDTH 1 and 16. -/
theorem witness_AccumFollowsItsRule :
    let s (w : BitVec 14) (x y : BitVec 22) := { State.reset with width := w, src0 := x, src1 := y }
    (∀ w x y, (s w x y).status = 0#4) ∧ (s 0 0 0).width.toNat = 0 ∧
    ((s 1 16 15).width.toNat ≠ 0 ∧ (s 1 16 15).cfg.srcSize < (s 1 16 15).src0.toNat + (s 1 16 15).width.toNat) ∧
    ((s 1 15 16).width.toNat ≠ 0 ∧ (s 1 15 16).cfg.srcSize < (s 1 15 16).src1.toNat + (s 1 15 16).width.toNat) ∧
    ((s 1 15 15).width.toNat ≠ 0 ∧ (s 1 15 15).src0.toNat + (s 1 15 15).width.toNat ≤ (s 1 15 15).cfg.srcSize ∧
      (s 1 15 15).src1.toNat + (s 1 15 15).width.toNat ≤ (s 1 15 15).cfg.srcSize) ∧
    ((s 16 0 0).width.toNat ≠ 0 ∧ (s 16 0 0).src0.toNat + (s 16 0 0).width.toNat ≤ (s 16 0 0).cfg.srcSize ∧
      (s 16 0 0).src1.toNat + (s 16 0 0).width.toNat ≤ (s 16 0 0).cfg.srcSize) :=
  ⟨fun _ _ _ => rfl, by decide, by decide, by decide, by decide, by decide⟩

theorem witness_AccumulatorLanesAreNeverTruncated : Config.ref.wf = true ∧ Config.lin.wf = true :=
  test_wf_config_ref_and_lin

/-- A completing and a faulting ACCUM. -/
theorem witness_AccumTwiceIsAccumOnce :
    (∃ t, exec .accum (sP2 .ref) = .next t ∧ (t.status == 0#4) = true) ∧
    (∃ t, exec .accum State.reset = .next t ∧ (t.status == 3#4) = true) :=
  ⟨next_with (P := fun t => t.status == 0#4) (by decide), next_with (P := fun t => t.status == 3#4) (by decide)⟩

theorem witness_Accum1AndAccumaRaiseUnimpl :
    State.reset.status = 0#4 ∧ ({ State.reset with status := 7#4 }).status ≠ 0#4 := by decide

/-- Only the alpha lane of pixel 1 (byte 7) differs. -/
theorem witness_AlphaLaneIsNeverRead :
    ∀ a lane, lane < 3 → Memory.read [(7, 5#8)] (4 * a + lane) = State.reset.src.read (4 * a + lane) := by
  intro a lane h
  simp [Memory.read, State.reset, State.resetWith, show ¬ 7 = 4 * a + lane by omega]

/-- ACC_MAX = 8 entries. -/
theorem witness_AccnCountsTheEntries :
    let s := { State.reset with acc := List.replicate 8 (entry 1 2 3) }
    s.cfg.wf = true ∧ s.acc.length ≤ (s.cfg.wmax + 1) / 2 := ⟨witness_cfg, by decide⟩

/-- No entry; U and V one past DST_SIZE = 32; ranges one apart; adjacent ranges; both ranges at the end of DST. -/
theorem witness_CvtuvFollowsItsRule :
    let s (n : Nat) (u v : BitVec 22) := { State.reset with acc := List.replicate n (entry 1 2 3), udst := u, vdst := v }
    (∀ n u v, (s n u v).status = 0#4 ∧ (s n u v).dst.wf = true) ∧ (s 0 0 0).acc.length = 0 ∧
    ((s 2 31 0).acc.length = 2 ∧ (s 2 31 0).cfg.dstSize < (s 2 31 0).udst.toNat + 2) ∧
    ((s 2 0 31).acc.length = 2 ∧ (s 2 0 31).cfg.dstSize < (s 2 0 31).vdst.toNat + 2) ∧
    ((s 2 0 1).acc.length = 2 ∧ (s 2 0 1).udst.toNat + 2 ≤ (s 2 0 1).cfg.dstSize ∧
      (s 2 0 1).vdst.toNat + 2 ≤ (s 2 0 1).cfg.dstSize ∧ ¬ apart (s 2 0 1).udst.toNat 2 (s 2 0 1).vdst.toNat 2) ∧
    ((s 2 30 28).acc.length = 2 ∧ (s 2 30 28).udst.toNat + 2 ≤ (s 2 30 28).cfg.dstSize ∧
      (s 2 30 28).vdst.toNat + 2 ≤ (s 2 30 28).cfg.dstSize ∧ apart (s 2 30 28).udst.toNat 2 (s 2 30 28).vdst.toNat 2) := by
  refine ⟨fun _ _ _ => ⟨rfl, rfl⟩, rfl, by decide, by decide, ⟨rfl, by decide, by decide, ?_⟩, rfl, by decide, by decide, ?_⟩
  · simp [apart]
  · simp [apart]

/-- WIDTH 0; source and destination one past their bounds; both ending exactly there. -/
theorem witness_CvtyFollowsItsRule :
    let s (w : BitVec 14) (x y : BitVec 22) := { State.reset with width := w, src1 := x, ydst1 := y }
    (∀ w x y, (s w x y).status = 0#4 ∧ (s w x y).dst.wf = true ∧
      (1#1 = 0#1 ∧ (s w x y).src1.toNat = (s w x y).src0.toNat ∧ (s w x y).ydst1.toNat = (s w x y).ydst0.toNat ∨
        1#1 = 1#1 ∧ (s w x y).src1.toNat = (s w x y).src1.toNat ∧ (s w x y).ydst1.toNat = (s w x y).ydst1.toNat)) ∧
    (s 0 0 0).width.toNat = 0 ∧
    ((s 1 16 0).width.toNat ≠ 0 ∧ (s 1 16 0).cfg.srcSize < (s 1 16 0).src1.toNat + (s 1 16 0).width.toNat) ∧
    ((s 4 0 29).width.toNat ≠ 0 ∧ (s 4 0 29).cfg.dstSize < (s 4 0 29).ydst1.toNat + (s 4 0 29).width.toNat) ∧
    ((s 4 12 28).width.toNat ≠ 0 ∧ (s 4 12 28).src1.toNat + (s 4 12 28).width.toNat ≤ (s 4 12 28).cfg.srcSize ∧
      (s 4 12 28).ydst1.toNat + (s 4 12 28).width.toNat ≤ (s 4 12 28).cfg.dstSize) :=
  ⟨fun _ _ _ => ⟨rfl, rfl, .inr ⟨rfl, rfl, rfl⟩⟩, by decide, by decide, by decide, by decide⟩

theorem witness_CvtuvUsesAccnNotWidth :
    (∃ t, exec .cvtuv { State.reset with acc := [entry 1 2 3], vdst := 1 } = .next t ∧ (t.status == 0#4) = true) ∧
    (∃ t, exec (.set 0 16) { State.reset with acc := [entry 1 2 3] } = .next t ∧ (t.width == 16#14) = true) :=
  ⟨next_with (P := fun t => t.status == 0#4) (by decide), next_with (P := fun t => t.width == 16#14) (by decide)⟩

theorem witness_CvtyCommutesWithAccum :
    ∃ t u, exec .accum (sP2 .lin) = .next t ∧ t.status = 0#4 ∧ exec (.cvty 1) t = .next u ∧ u.status = 0#4 :=
  ⟨_, _, rfl, rfl, rfl, rfl⟩

/-- A uniform colour over both rows, WIDTH 3: block 0 and tail 1, under the box-exact tables LIN. -/
def srcUniform : Memory := pixelsFrom 0 (List.replicate 6 (200, 100, 50, 9))

def sUniform : State :=
  { State.resetWith Config.lin srcUniform [] with width := 3, src1 := 3, udst := 30, vdst := 28 }

theorem witness_UniformMacroPixelBoxFilter :
    (sUniform.cfg.wf = true ∧ sUniform.dst.wf = true ∧ sUniform.status = 0#4 ∧ 2 = (sUniform.width.toNat + 1) / 2) ∧
    (∀ i, i < 2 → ∀ base, base = sUniform.src0.toNat ∨ base = sUniform.src1.toNat →
      ∀ j, j < sUniform.width.toNat → j / 2 = i →
        srcLane sUniform 0 (base + j) = (200#8).toNat ∧ srcLane sUniform 1 (base + j) = (100#8).toNat ∧
        srcLane sUniform 2 (base + j) = (50#8).toNat) ∧
    sUniform.src0.toNat + sUniform.width.toNat ≤ sUniform.cfg.srcSize ∧
    sUniform.src1.toNat + sUniform.width.toNat ≤ sUniform.cfg.srcSize ∧
    sUniform.udst.toNat + 2 ≤ sUniform.cfg.dstSize ∧ sUniform.vdst.toNat + 2 ≤ sUniform.cfg.dstSize ∧
    apart sUniform.udst.toNat 2 sUniform.vdst.toNat 2 ∧
    (∀ c : Sample, uniformEntry sUniform.cfg c.toNat = 4 * c.toNat) := by
  refine ⟨⟨by decide +kernel, rfl, rfl, rfl⟩, ?_, by decide, by decide, by decide, by decide, .inr (by decide), by decide +kernel⟩
  rintro i _ base (rfl | rfl) j hj - <;> revert j <;> decide +kernel

/-- The grey clause: the same state over an all-black source. -/
theorem witness_UniformMacroPixelBoxFilter_grey :
    let s := { sUniform with src := [] }
    (∀ i, i < 2 → ∀ base, base = s.src0.toNat ∨ base = s.src1.toNat → ∀ j, j < s.width.toNat → j / 2 = i →
      srcLane s 0 (base + j) = (0#8).toNat ∧ srcLane s 1 (base + j) = (0#8).toNat ∧ srcLane s 2 (base + j) = (0#8).toNat) ∧
    (0#8 = 0#8 ∧ 0#8 = 0#8) := ⟨fun _ _ _ _ _ _ _ => ⟨rfl, rfl, rfl⟩, rfl, rfl⟩

/-- The row pair of P2. -/
theorem witness_CvtPairConvertsTheRowPair :
    let s := sP2 .ref
    s.cfg.wf = true ∧ s.dst.wf = true ∧ s.status = 0#4 ∧ 3 = s.width.toNat ∧ 3 ≠ 0 ∧ 2 = (3 + 1) / 2 ∧
    s.src0.toNat + 3 ≤ s.cfg.srcSize ∧ s.src1.toNat + 3 ≤ s.cfg.srcSize ∧
    s.ydst0.toNat + 3 ≤ s.cfg.dstSize ∧ s.ydst1.toNat + 3 ≤ s.cfg.dstSize ∧
    s.udst.toNat + 2 ≤ s.cfg.dstSize ∧ s.vdst.toNat + 2 ≤ s.cfg.dstSize ∧
    apart s.ydst0.toNat 3 s.ydst1.toNat 3 ∧ apart s.ydst0.toNat 3 s.udst.toNat 2 ∧
    apart s.ydst0.toNat 3 s.vdst.toNat 2 ∧ apart s.ydst1.toNat 3 s.udst.toNat 2 ∧
    apart s.ydst1.toNat 3 s.vdst.toNat 2 ∧ apart s.udst.toNat 2 s.vdst.toNat 2 :=
  ⟨witness_cfg, rfl, rfl, rfl, by decide, rfl, by decide, by decide, by decide, by decide, by decide, by decide,
    .inl (by decide), .inl (by decide), .inl (by decide), .inl (by decide), .inl (by decide), .inl (by decide)⟩

/-- A state at the invariant's bounds: WIDTH = WMAX, ACC_MAX entries of 65532, RES 65535, fault 7. -/
def sBounds : State :=
  { State.reset with
    width := 16, acc := List.replicate 8 (entry 65532 65532 65532), res := 65535, status := 7, ecmd := 0x44000000#32,
    src := [(63, 1#8)], dst := [(31, 1#8)], port := [.command 0x08000000#32] }

theorem witness_StepKeepsTheInvariant :
    sBounds.Inv ∧ ∃ t, step sBounds = .next t ∧ (t.status == 0#4) = true :=
  ⟨⟨witness_cfg, by decide, by decide, by decide, by decide, by decide, by decide, by decide, by decide, by decide, by decide⟩,
    next_with (P := fun t => t.status == 0#4) (by decide +kernel)⟩

theorem witness_FaultWritesOnlyStatusAndEcmd :
    let s := { State.reset with port := [.command 0x50000000#32] }
    s.port = .command 0x50000000#32 :: [] ∧ s.status = 0#4 ∧ ∃ t, step s = .next t ∧ (t.status != 0#4) = true :=
  ⟨rfl, rfl, next_with (P := fun t => t.status != 0#4) (by decide +kernel)⟩

/-- In the fault state: a discarded word, and the word that leaves it. -/
theorem witness_OnlyResetLeavesTheFaultState :
    let s := { State.reset with status := 6#4, port := [.command 0x04000001#32] }
    (s.status ≠ 0#4 ∧ ∃ t, step s = .next t ∧ (t.status == 6#4) = true) ∧
    (sBounds.status ≠ 0#4 ∧ ∃ t, step sBounds = .next t ∧ (t.status == 0#4) = true) :=
  ⟨⟨by decide, next_with (P := fun t => t.status == 6#4) (by decide +kernel)⟩, by decide,
    next_with (P := fun t => t.status == 0#4) (by decide +kernel)⟩

/-- Each clause with a command that does change the state it names: ACC, DST, RES, STATUS. -/
theorem witness_EachCommandWritesOnlyItsOwnState :
    (∃ t, exec .accum (sP2 .ref) = .next t ∧ (t.acc != (sP2 .ref).acc) = true) ∧
    (∃ t, exec (.cvty 0) (sP2 .ref) = .next t ∧ (t.dst != (sP2 .ref).dst) = true) ∧
    (∃ t, exec .rgb2y State.reset = .next t ∧ (t.res != State.reset.res) = true) ∧
    (∃ t, exec .accum1 State.reset = .next t ∧ (t.status != State.reset.status && t.ecmd != State.reset.ecmd) = true) :=
  ⟨next_with (P := fun t => t.acc != (sP2 .ref).acc) (by decide), next_with (P := fun t => t.dst != (sP2 .ref).dst) (by decide),
    next_with (P := fun t => t.res != State.reset.res) (by decide),
    next_with (P := fun t => t.status != State.reset.status && t.ecmd != State.reset.ecmd) (by decide)⟩

/-- The last element of each space, and the first past it. -/
theorem witness_HostAccessesDoWhatTheInterfaceSays :
    let s (a : HostAction) := State.reset.withPort [a]
    (∀ a, (s a).cfg.wf = true ∧ (s a).src.wf = true ∧ (s a).dst.wf = true ∧ (s a).port = a :: []) ∧
    15 < State.reset.cfg.srcSize ∧ 31 < State.reset.cfg.dstSize ∧ State.reset.cfg.srcSize ≤ 16 ∧
    State.reset.cfg.dstSize ≤ 32 :=
  ⟨fun _ => ⟨witness_cfg, rfl, rfl, rfl⟩, by decide, by decide, by decide, by decide⟩

theorem witness_ReadPortGivesEachRegister :
    let s := State.reset.withPort [.readReg 15#4]
    s.cfg.wf = true ∧ s.port = .readReg 15#4 :: [] := ⟨witness_cfg, rfl⟩

theorem witness_PixelBytesAndWord : Memory.wf [(3, 9#8), (5, 1#8)] = true := by decide

end Sys2Proof.Tests
end

section
/-! The bounds WF1 to WF3 put on a well-formed configuration (00_scope.md R6), and the refusal of every other one. -/

namespace Sys2Proof.Machine

theorem Config.tabFix_le {c : Config} (h : c.wf = true) : c.tabFix ≤ 14 := by
  obtain ⟨-, -, h1, -, -⟩ := Config.wf_parts h
  simp only [Config.wf1, Bool.and_eq_true, decide_eq_true_eq] at h1
  exact h1.2

theorem Config.four_mul_maxG2l_div_lt_tabSize {c : Config} (h : c.wf = true) :
    4 * c.maxG2l / 2 ^ (c.tabFix + 2) < c.tabSize := by
  obtain ⟨-, -, -, h2, -⟩ := Config.wf_parts h
  simpa only [Config.wf2, decide_eq_true_eq, Nat.shiftRight_eq_div_pow] using h2

theorem Config.le_maxG2l_of_mem {c : Config} {e : Nat} (he : e ∈ c.g2l) : e ≤ c.maxG2l :=
  le_foldl_max he 0

/-- WF2 speaks of max(G2L) only; every entry keeps within it. -/
theorem Config.four_mul_div_lt_tabSize_of_mem_g2l {c : Config} (h : c.wf = true) {e : Nat} (he : e ∈ c.g2l) :
    4 * e / 2 ^ (c.tabFix + 2) < c.tabSize :=
  calc 4 * e / 2 ^ (c.tabFix + 2)
      ≤ 4 * c.maxG2l / 2 ^ (c.tabFix + 2) :=
        Nat.div_le_div_right (Nat.mul_le_mul_left 4 (Config.le_maxG2l_of_mem he))
    _ < c.tabSize := Config.four_mul_maxG2l_div_lt_tabSize h

/-- WF3, by membership in the tables. -/
theorem Config.table_entries_le {c : Config} (h : c.wf = true) :
    (∀ e ∈ c.g2l, e ≤ 65535) ∧ (∀ e ∈ c.l2g, e ≤ 16383) := by
  obtain ⟨-, -, -, -, h3⟩ := Config.wf_parts h
  simpa only [Config.wf3, Bool.and_eq_true, List.all_eq_true, decide_eq_true_eq] using h3

theorem step_of_not_wf {s : State} (h : ¬ s.cfg.wf = true) : step s = .refused .configNotWellFormed :=
  if_neg h

end Sys2Proof.Machine

namespace Sys2Proof

open Sys2Proof.Machine

/-- Settles O9: each of the five violations contradicts the bound a well-formed configuration has there. -/
theorem illFormedConfigIsRefused : Obligations.IllFormedConfigIsRefused := by
  unfold Obligations.IllFormedConfigIsRefused
  intro s violation
  refine step_of_not_wf fun hwf => ?_
  obtain ⟨g2l_le, l2g_le⟩ := Config.table_entries_le hwf
  rcases violation with hlow | hhigh | ⟨e, he, hreach⟩ | ⟨e, he, hbig⟩ | ⟨e, he, hbig⟩
  · exact absurd (Config.tabFix_pos hwf) (Nat.not_le.mpr hlow)
  · exact absurd (Config.tabFix_le hwf) (Nat.not_le.mpr hhigh)
  · exact absurd (Config.four_mul_div_lt_tabSize_of_mem_g2l hwf he) (Nat.not_lt.mpr hreach)
  · exact absurd (g2l_le e he) (Nat.not_le.mpr hbig)
  · exact absurd (l2g_le e he) (Nat.not_le.mpr hbig)

end Sys2Proof
end

section
/-! The state of 10_state.md: what serves a pending host action, what a completed command updates, the invariant kept by
each named update and so by every step, and what the read port returns. -/

namespace Sys2Proof.Machine

/-! Serving the port. -/

theorem step_of_empty_port {s : State} (hwf : s.cfg.wf = true) (hport : s.port = []) : step s = .next s := by
  rw [step, if_pos hwf, servePort, hport]

theorem step_of_pending {s : State} (hwf : s.cfg.wf = true) {a : HostAction} {rest : List HostAction}
    (hport : s.port = a :: rest) : step s = serve a (s.withPort rest) := by
  rw [step, if_pos hwf, servePort, hport]

theorem issue_of_decode {w : Word} {i : Instr} (h : decode w = .ok i) (s : State) : issue w s = exec i s := by
  rw [issue, h]

theorem step_of_decoded_command {s : State} (hwf : s.cfg.wf = true) {w : Word} {rest : List HostAction} {i : Instr}
    (hport : s.port = .command w :: rest) (h : decode w = .ok i) : step s = exec i (s.withPort rest) :=
  (step_of_pending hwf hport).trans (issue_of_decode h _)

/-- A 32-bit word handed to `withFetchWord` stands in front of the port unchanged. -/
theorem State.withFetchWord_port (s : State) (n : Nat) :
    (s.withFetchWord 32 n).port = .command (BitVec.ofNat 32 n) :: s.port := by
  have hword : BitVec.ofNat 32 (n % 2 ^ 32) = BitVec.ofNat 32 n := BitVec.eq_of_toNat_eq (by simp)
  rw [← hword]; rfl

theorem State.withFetchWord_withPort (s : State) (nbits n : Nat) : (s.withFetchWord nbits n).withPort s.port = s := rfl

/-- A checked host access that answers a next state passed its check. -/
theorem of_checked_access {p : Prop} [Decidable p] {s t : State} {r : Refusal}
    (h : (if p then .next s else .refused r : Result) = .next t) : p ∧ t = s := by
  split at h <;> cases h
  exact ⟨‹_›, rfl⟩

/-- One inversion lemma for `serve`: everything serving a host action can do (20_memory.md R57). -/
theorem serve_cases {a : HostAction} {s t : State} (h : serve a s = .next t) :
    (∃ w, a = .command w ∧ issue w s = .next t) ∨
    (∃ i p, a = .writeSrc i p ∧ i < s.cfg.srcSize ∧ t = s.setSrc (s.src.writePixel i p)) ∨
    (∃ i v, a = .writeDst i v ∧ i < s.cfg.dstSize ∧ t = s.setDst (s.dst.write i v)) ∨
    (a = .hardReset ∧ t = s.doReset) ∨
    t = s := by
  cases a with
  | command w => exact .inl ⟨w, rfl, h⟩
  | writeSrc i p => exact .inr (.inl ⟨i, p, rfl, of_checked_access h⟩)
  | readSrc i => exact .inr (.inr (.inr (.inr (of_checked_access h).2)))
  | writeDst i v => exact .inr (.inr (.inl ⟨i, v, rfl, of_checked_access h⟩))
  | readDst i => exact .inr (.inr (.inr (.inr (of_checked_access h).2)))
  | readReg n => cases h; exact .inr (.inr (.inr (.inr rfl)))
  | hardReset => cases h; exact .inr (.inr (.inr (.inl ⟨rfl, rfl⟩)))

/-! Which part of the state a completed command updates. -/

/-- A completed command makes exactly one named update. -/
theorem Completes.update_cases {s t : State} {i : Instr} (hc : Completes s i t) :
    (∃ reg imm r, i = .set reg imm ∧ t = s.writeReg r imm) ∨
    ((i = .g2l ∨ (∃ k, i = .l2g k) ∨ i = .rgb2y ∨ i = .rgb2u ∨ i = .rgb2v) ∧ ∃ v, t = s.setRes v) ∨
    (i = .accum ∧ t = s.setAcc s.accumulated) ∨
    ((i = .cvtuv ∨ ∃ k, i = .cvty k) ∧ ∃ m, t = s.setDst m) := by
  cases hc with
  | set => exact .inl ⟨_, _, _, rfl, rfl⟩
  | g2l => exact .inr (.inl ⟨.inl rfl, _, rfl⟩)
  | l2g => exact .inr (.inl ⟨.inr (.inl ⟨_, rfl⟩), _, rfl⟩)
  | rgb2y => exact .inr (.inl ⟨.inr (.inr (.inl rfl)), _, rfl⟩)
  | rgb2u => exact .inr (.inl ⟨.inr (.inr (.inr (.inl rfl))), _, rfl⟩)
  | rgb2v => exact .inr (.inl ⟨.inr (.inr (.inr (.inr rfl))), _, rfl⟩)
  | accum => exact .inr (.inr (.inl ⟨rfl, rfl⟩))
  | cvtuv => exact .inr (.inr (.inr ⟨.inl rfl, _, rfl⟩))
  | cvty => exact .inr (.inr (.inr ⟨.inr ⟨_, rfl⟩, _, rfl⟩))

/-! The invariant, update by update. -/

theorem State.Inv.withPort {s : State} (hs : s.Inv) (l : List HostAction) : (s.withPort l).Inv := { hs with }

theorem State.Inv.setRes {s : State} (hs : s.Inv) {v : Nat} (hv : v ≤ 65535) : (s.setRes v).Inv :=
  { hs with res_le := by simp only [State.setRes_res, BitVec.toNat_ofNat]; omega }

theorem State.Inv.setAcc {s : State} (hs : s.Inv) {es : List AccEntry} (hlen : es.length ≤ s.cfg.accMax)
    (hlanes : ∀ e ∈ es, e.r.toNat ≤ 65532 ∧ e.g.toNat ≤ 65532 ∧ e.b.toNat ≤ 65532) : (s.setAcc es).Inv :=
  { hs with acc_length_le := hlen, acc_lanes_le := hlanes }

theorem State.Inv.setSrc {s : State} (hs : s.Inv) {m : Memory} (hwf : m.wf = true)
    (hin : m.within (4 * s.cfg.srcSize) = true) : (s.setSrc m).Inv :=
  { hs with src_wf := hwf, src_within := hin }

theorem State.Inv.setDst {s : State} (hs : s.Inv) {m : Memory} (hwf : m.wf = true)
    (hin : m.within s.cfg.dstSize = true) : (s.setDst m).Inv :=
  { hs with dst_wf := hwf, dst_within := hin }

/-- ECMD may hold a word because the fault state is entered with it. -/
theorem State.Inv.raise {s : State} (hs : s.Inv) (c : Cause) (w : Word) : (s.raise c w).Inv :=
  { hs with
    status_le := (Cause.code_range c).2
    ecmd_run := fun hrun => absurd hrun (raise_not_running s c w) }

theorem State.Inv.doReset {s : State} (hs : s.Inv) : s.doReset.Inv :=
  { hs with
    width_le := Nat.zero_le _
    acc_length_le := Nat.zero_le _
    acc_lanes_le := by simp
    res_le := Nat.zero_le _
    status_le := Nat.zero_le _
    ecmd_run := fun _ => rfl }

/-- Of the registers SET writes the invariant bounds WIDTH only, by SET's own check (40_control.md R81). -/
theorem State.Inv.writeReg {s : State} (hs : s.Inv) {r : RwReg} {imm : BitVec 22}
    (hw : r = .width → imm.toNat ≤ s.cfg.wmax) : (s.writeReg r imm).Inv := by
  cases r with
  | width =>
    have hle : (imm.setWidth 14).toNat ≤ s.cfg.wmax := by
      rw [BitVec.toNat_setWidth]; exact (Nat.mod_le _ _).trans (hw rfl)
    exact { hs with width_le := hle }
  | _ => exact { hs with }

/-! The value each completed command writes. -/

theorem lanes_blockEntry_le {c : Config} (h : c.wf = true) (p00 p01 p10 p11 : Pixel) :
    (blockEntry c p00 p01 p10 p11).r.toNat ≤ 65532 ∧ (blockEntry c p00 p01 p10 p11).g.toNat ≤ 65532 ∧
      (blockEntry c p00 p01 p10 p11).b.toNat ≤ 65532 :=
  ⟨lane_le h _ _, lane_le h _ _, lane_le h _ _⟩

theorem lanes_tailEntry_le {c : Config} (h : c.wf = true) (p0 p1 : Pixel) :
    (tailEntry c p0 p1).r.toNat ≤ 65532 ∧ (tailEntry c p0 p1).g.toNat ≤ 65532 ∧ (tailEntry c p0 p1).b.toNat ≤ 65532 :=
  ⟨lane_le h _ _, lane_le h _ _, lane_le h _ _⟩

/-- Every entry ACCUM computes is that of a block or of the tail column (42_accumulate.md R111). -/
theorem mem_accumulated {s : State} {e : AccEntry} (he : e ∈ s.accumulated) : (∃ i, e = s.blockAt i) ∨ e = s.tailAt := by
  rcases List.mem_append.mp he with hblock | htail
  · obtain ⟨i, -, rfl⟩ := List.mem_map.mp hblock
    exact .inl ⟨i, rfl⟩
  · split at htail
    · exact .inr (List.mem_singleton.mp htail)
    · cases htail

theorem lanes_accumulated_le {s : State} (hwf : s.cfg.wf = true) :
    ∀ e ∈ s.accumulated, e.r.toNat ≤ 65532 ∧ e.g.toNat ≤ 65532 ∧ e.b.toNat ≤ 65532 := by
  intro e he
  rcases mem_accumulated he with ⟨i, rfl⟩ | rfl
  · exact lanes_blockEntry_le hwf _ _ _ _
  · exact lanes_tailEntry_le hwf _ _

theorem length_accumulated_le_accMax {s : State} (hw : s.width.toNat ≤ s.cfg.wmax) :
    s.accumulated.length ≤ s.cfg.accMax := by
  rw [accumulated_length, Config.accMax, Nat.shiftRight_eq_div_pow]
  omega

theorem length_lumaRow (s : State) (k : BitVec 1) : (s.lumaRow k).length = s.width.toNat := by simp [State.lumaRow]

/-! The invariant is kept by every command, every host action and every step. -/

theorem Completes.keeps_inv {s t : State} {i : Instr} (hs : s.Inv) (hc : Completes s i t) : t.Inv := by
  cases hc with
  | set _ hw _ => exact hs.writeReg fun hr => Nat.not_lt.mp fun hlt => hw ⟨hr, .inr hlt⟩
  | g2l => exact hs.setRes (Config.g2l_le hs.cfg_wf _)
  | l2g => exact hs.setRes ((linearToGamma_le hs.cfg_wf _ _).trans (by decide))
  | rgb2y h =>
    obtain ⟨hr, hg, hb⟩ := h
    exact hs.setRes ((rgbToY_le hr hg hb s.rnd.isLt).trans (by decide))
  | rgb2u => exact hs.setRes ((rgbToU_le _ _ _ _).trans (by decide))
  | rgb2v => exact hs.setRes ((rgbToV_le _ _ _ _).trans (by decide))
  | accum => exact hs.setAcc (length_accumulated_le_accMax hs.width_le) (lanes_accumulated_le hs.cfg_wf)
  | cvtuv _ hu hv _ =>
    exact hs.setDst (Memory.wf_writeChroma hs.dst_wf _ _ _) (Memory.within_writeChroma hs.dst_within hu hv)
  | cvty _ _ hd =>
    rw [State.dstInBounds, ← length_lumaRow] at hd
    exact hs.setDst (Memory.wf_writeRow hs.dst_wf _ _) (Memory.within_writeRow hs.dst_within hd)

theorem exec_keeps_inv {s t : State} {i : Instr} (hs : s.Inv) (h : exec i s = .next t) : t.Inv := by
  cases exec_cases h with
  | discarded _ _ ht => exact ht ▸ hs
  | reset _ ht => exact ht ▸ hs.doReset
  | raised _ c ht => exact ht ▸ hs.raise c _
  | completed _ hc => exact hc.keeps_inv hs

theorem issue_keeps_inv {s t : State} {w : Word} (hs : s.Inv) (h : issue w s = .next t) : t.Inv := by
  rcases issue_cases h with ⟨i, -, hexec⟩ | ⟨-, -, ⟨-, rfl⟩ | ⟨-, rfl⟩⟩
  · exact exec_keeps_inv hs hexec
  · exact hs.raise _ _
  · exact hs

theorem serve_keeps_inv {s t : State} {a : HostAction} (hs : s.Inv) (h : serve a s = .next t) : t.Inv := by
  rcases serve_cases h with ⟨w, -, hissue⟩ | ⟨i, p, -, hi, rfl⟩ | ⟨i, v, -, hi, rfl⟩ | ⟨-, rfl⟩ | rfl
  · exact issue_keeps_inv hs hissue
  · exact hs.setSrc (Memory.wf_writePixel hs.src_wf _ _) (Memory.within_writePixel hs.src_within hi _)
  · exact hs.setDst (Memory.wf_write hs.dst_wf _ _) (Memory.within_write hs.dst_within hi _)
  · exact hs.doReset
  · exact hs

theorem step_keeps_inv {s t : State} (hs : s.Inv) (h : step s = .next t) : t.Inv := by
  obtain ⟨-, ⟨-, rfl⟩ | ⟨a, rest, -, hserve⟩⟩ := step_cases h
  · exact hs
  · exact serve_keeps_inv (hs.withPort rest) hserve

theorem Config.ref_wf : Config.ref.wf = true := by decide +kernel

/-- Reset leaves every bounded register 0, ACC empty and both memories listing nothing (10_state.md R31). -/
theorem State.reset_inv : State.reset.Inv where
  cfg_wf := Config.ref_wf
  src_wf := rfl
  src_within := rfl
  dst_wf := rfl
  dst_within := rfl
  width_le := Nat.zero_le _
  acc_length_le := Nat.zero_le _
  acc_lanes_le := by simp
  res_le := Nat.zero_le _
  status_le := Nat.zero_le _
  ecmd_run := fun _ => rfl

/-! Reset and the register reads. -/

theorem State.withPort_doReset (s : State) (l : List HostAction) :
    (s.withPort l).doReset = { Spec.cleared s with port := l } := rfl

theorem decode_reset_word : decode 0x08000000#32 = .ok .reset := by decide

theorem State.readReg_reset (r : Reg) : State.reset.readReg r = 0#32 := by
  cases r with
  | rw r => cases r <;> rfl
  | ro r => cases r <;> rfl

theorem State.readPort_reset (n : BitVec 4) : State.reset.readPort n = 0#32 := by
  rw [State.readPort]
  split
  · exact State.readReg_reset _
  · rfl

/-- ACC_MAX is at most 8192, so ACCN's 14 bits hold the number of entries (10_state.md R21). -/
theorem State.accn_toNat {s : State} (hwf : s.cfg.wf = true) (hlen : s.acc.length ≤ (s.cfg.wmax + 1) / 2) :
    s.accn.toNat = s.acc.length := by
  have hmax := Config.wmax_le hwf
  rw [State.accn, BitVec.toNat_ofNat, Nat.mod_eq_of_lt (by omega)]

theorem State.readPort_accn (s : State) : s.readPort 13#4 = BitVec.ofNat 32 s.accn.toNat :=
  (BitVec.ofNat_toNat 32 s.accn).symm

end Sys2Proof.Machine

namespace Sys2Proof

open Sys2Proof.Machine

/-- Settles O39: the invariant is kept by the served action, since each named update keeps it. -/
theorem stepKeepsTheInvariant : Obligations.StepKeepsTheInvariant := by
  unfold Obligations.StepKeepsTheInvariant
  intro s t hs hstep
  exact step_keeps_inv hs hstep

/-- Settles O42: a command is discarded, resets, faults or makes one named update, and each leaves the rest alone. -/
theorem eachCommandWritesOnlyItsOwnState : Obligations.EachCommandWritesOnlyItsOwnState := by
  unfold Obligations.EachCommandWritesOnlyItsOwnState
  intro i s t h
  cases exec_cases h with
  | discarded _ _ ht => subst ht; simp
  | reset hi ht => subst hi ht; simp
  | raised hr c ht => subst ht; simp [hr, (Cause.code_range c).1]
  | completed _ hc =>
    rcases hc.update_cases with ⟨reg, imm, r, rfl, rfl⟩ | ⟨hi, v, rfl⟩ | ⟨rfl, rfl⟩ | ⟨hi, m, rfl⟩
    · simp
    · rcases hi with rfl | ⟨k, rfl⟩ | rfl | rfl | rfl <;> simp
    · simp
    · simp [hi]

/-- Settles O5: the served word is issued, and issuing a legal word is executing it. -/
theorem stepRunsTheDecodedCommand : Obligations.StepRunsTheDecodedCommand := by
  unfold Obligations.StepRunsTheDecodedCommand
  intro s i hwf
  refine ⟨fun w rest hport hdecode => step_of_decoded_command hwf hport hdecode, fun n hdecode => ?_⟩
  rw [step_of_decoded_command (s := s.withFetchWord 32 n) hwf (s.withFetchWord_port n) hdecode,
    State.withFetchWord_withPort]

/-- Settles O10: an empty port serves nothing. -/
theorem emptyPortStepChangesNothing : Obligations.EmptyPortStepChangesNothing := by
  unfold Obligations.EmptyPortStepChangesNothing
  intro s hwf hport
  exact step_of_empty_port hwf hport

/-- Settles O13: both actions serve `State.doReset`. -/
theorem bothResetsLeaveTheResetState : Obligations.BothResetsLeaveTheResetState := by
  unfold Obligations.BothResetsLeaveTheResetState
  rintro s rest hwf (hport | hport)
  · exact (step_of_pending hwf hport).trans (congrArg _ (State.withPort_doReset s rest))
  · exact (step_of_decoded_command hwf hport decode_reset_word).trans (congrArg _ (State.withPort_doReset s rest))

/-- Settles O14: whichever register a number names holds 0, and register 15 reads 0. -/
theorem resetRegistersAreZero : Obligations.ResetRegistersAreZero := by
  unfold Obligations.ResetRegistersAreZero
  exact ⟨rfl, State.readPort_reset, rfl⟩

/-- Settles O31: ACC_MAX fits the 14 bits of ACCN, so the count is exact there and on the port. -/
theorem accnCountsTheEntries : Obligations.AccnCountsTheEntries := by
  unfold Obligations.AccnCountsTheEntries
  intro s hwf hlen
  have haccn := State.accn_toNat hwf hlen
  exact ⟨haccn, by rw [State.readPort_accn, haccn]⟩

/-- Settles O38 by `State.reset_inv`, the base case of the invariant. -/
theorem resetStateMeetsTheInvariant : Obligations.ResetStateMeetsTheInvariant := State.reset_inv

/-- Settles O44: each number names its register, whose value is zero-extended, and serving a read only moves the port. -/
theorem readPortGivesEachRegister : Obligations.ReadPortGivesEachRegister := by
  unfold Obligations.ReadPortGivesEachRegister
  constructor
  · intro s
    simp only [BitVec.ofNat_toNat]
    exact ⟨rfl, rfl, rfl, rfl, rfl, rfl, rfl, rfl, rfl, rfl, rfl, rfl, rfl, rfl, rfl, rfl⟩
  · intro s n rest hwf hport
    exact ⟨step_of_pending hwf hport, rfl⟩

end Sys2Proof
end

section
/-! The memory of 20_memory.md: a pixel's bytes and its word (R43), and the host's accesses to SRC and DST (R57). -/

namespace Sys2Proof.Machine

/-! A pixel in SRC: four bytes of its own. -/

theorem Memory.read_writePixel_of_outside {m : Memory} (hm : m.wf = true) {a c : Nat} (p : Pixel)
    (h : c < 4 * a ∨ 4 * a + 4 ≤ c) : (m.writePixel a p).read c = m.read c := by
  rw [Memory.read_writePixel hm, if_neg (by omega), if_neg (by omega), if_neg (by omega), if_neg (by omega)]

theorem Memory.pixel_writePixel_same {m : Memory} (hm : m.wf = true) (a : Nat) (p : Pixel) :
    (m.writePixel a p).pixel a = p := by
  simp [Memory.pixel, Memory.read_writePixel hm]

theorem Memory.pixel_writePixel_of_ne {m : Memory} (hm : m.wf = true) {a b : Nat} (p : Pixel) (h : b ≠ a) :
    (m.writePixel a p).pixel b = m.pixel b := by
  have byte_kept (i : Nat) (hi : i < 4) : (m.writePixel a p).read (4 * b + i) = m.read (4 * b + i) :=
    Memory.read_writePixel_of_outside hm p (by omega)
  have r_kept := byte_kept 0 (by decide)
  rw [Nat.add_zero] at r_kept
  rw [Memory.pixel, Memory.pixel, r_kept, byte_kept 1 (by decide), byte_kept 2 (by decide), byte_kept 3 (by decide)]

/-! A pixel as a word: each field of the concatenation is the last one once the fields below it are passed over. -/

theorem Pixel.word_r (p : Pixel) : p.word.extractLsb' 0 8 = p.r := BitVec.extractLsb'_append_eq_right

theorem Pixel.word_g (p : Pixel) : p.word.extractLsb' 8 8 = p.g :=
  (BitVec.extractLsb'_append_eq_of_le (Nat.le_refl 8)).trans BitVec.extractLsb'_append_eq_right

theorem Pixel.word_b (p : Pixel) : p.word.extractLsb' 16 8 = p.b :=
  (BitVec.extractLsb'_append_eq_of_le (by decide)).trans <|
    (BitVec.extractLsb'_append_eq_of_le (Nat.le_refl 8)).trans BitVec.extractLsb'_append_eq_right

theorem Pixel.word_a (p : Pixel) : p.word.extractLsb' 24 8 = p.a :=
  (BitVec.extractLsb'_append_eq_of_le (by decide)).trans <|
    (BitVec.extractLsb'_append_eq_of_le (by decide)).trans BitVec.extractLsb'_append_eq_left

/-! Serving a host access: its check against the space, its effect and its reply. -/

section
variable {s : State} {i : Nat}

theorem serve_writeSrc (h : i < s.cfg.srcSize) (p : Pixel) :
    serve (.writeSrc i p) s = .next (s.setSrc (s.src.writePixel i p)) := if_pos h

theorem serve_readSrc (h : i < s.cfg.srcSize) : serve (.readSrc i) s = .next s := if_pos h

theorem serve_writeDst (h : i < s.cfg.dstSize) (v : Sample) :
    serve (.writeDst i v) s = .next (s.setDst (s.dst.write i v)) := if_pos h

theorem serve_readDst (h : i < s.cfg.dstSize) : serve (.readDst i) s = .next s := if_pos h

theorem serve_outside_src (h : s.cfg.srcSize ≤ i) {a : HostAction} (ha : (∃ p, a = .writeSrc i p) ∨ a = .readSrc i) :
    serve a s = .refused .hostAccessOutsideSpace := by
  rcases ha with ⟨p, rfl⟩ | rfl <;> exact if_neg (Nat.not_lt.mpr h)

theorem serve_outside_dst (h : s.cfg.dstSize ≤ i) {a : HostAction} (ha : (∃ v, a = .writeDst i v) ∨ a = .readDst i) :
    serve a s = .refused .hostAccessOutsideSpace := by
  rcases ha with ⟨v, rfl⟩ | rfl <;> exact if_neg (Nat.not_lt.mpr h)

theorem reply_readSrc (h : i < s.cfg.srcSize) : (HostAction.readSrc i).reply s = some (s.src.pixel i).word := if_pos h

theorem reply_readDst (h : i < s.cfg.dstSize) :
    (HostAction.readDst i).reply s = some (BitVec.ofNat 32 (s.dst.read i).toNat) := by
  rw [BitVec.ofNat_toNat]
  exact if_pos h

end

end Sys2Proof.Machine

namespace Sys2Proof

open Sys2Proof.Machine

/-- Settles O43: an access inside its space takes the memory's own write or only moves the port; past it the check
refuses. -/
theorem hostAccessesDoWhatTheInterfaceSays : Obligations.HostAccessesDoWhatTheInterfaceSays := by
  unfold Obligations.HostAccessesDoWhatTheInterfaceSays
  intro s rest hwf hsrc hdst
  refine ⟨fun a p ha hport => ?writeSrc, fun a v ha hport => ?writeDst, fun a ha hport => ?readSrc,
    fun a ha hport => ?readDst, fun a ha haccess => ?outsideSrc, fun a ha haccess => ?outsideDst⟩
  case writeSrc =>
    exact ⟨s.src.writePixel a p, (step_of_pending hwf hport).trans (serve_writeSrc (s := s.withPort rest) ha p),
      Memory.wf_writePixel hsrc a p, Memory.pixel_writePixel_same hsrc a p,
      fun _ hb => Memory.pixel_writePixel_of_ne hsrc p hb⟩
  case writeDst =>
    exact ⟨s.dst.write a v, (step_of_pending hwf hport).trans (serve_writeDst (s := s.withPort rest) ha v),
      Memory.wf_write hdst a v, (Memory.read_write hdst a a v).trans (if_pos rfl),
      fun b hb => (Memory.read_write hdst a b v).trans (if_neg hb)⟩
  case readSrc =>
    exact ⟨(step_of_pending hwf hport).trans (serve_readSrc (s := s.withPort rest) ha), reply_readSrc ha⟩
  case readDst =>
    exact ⟨(step_of_pending hwf hport).trans (serve_readDst (s := s.withPort rest) ha), reply_readDst ha⟩
  case outsideSrc =>
    rcases haccess with ⟨p, hport⟩ | hport
    · exact (step_of_pending hwf hport).trans (serve_outside_src (s := s.withPort rest) ha (.inl ⟨p, rfl⟩))
    · exact (step_of_pending hwf hport).trans (serve_outside_src (s := s.withPort rest) ha (.inr rfl))
  case outsideDst =>
    rcases haccess with ⟨v, hport⟩ | hport
    · exact (step_of_pending hwf hport).trans (serve_outside_dst (s := s.withPort rest) ha (.inl ⟨v, rfl⟩))
    · exact (step_of_pending hwf hport).trans (serve_outside_dst (s := s.withPort rest) ha (.inr rfl))

/-- Settles O45: the four bytes written are the lanes of the pixel read back, and the word holds each lane in its
field. -/
theorem pixelBytesAndWord : Obligations.PixelBytesAndWord := by
  unfold Obligations.PixelBytesAndWord
  constructor
  · intro m a p hm
    have readback : (m.writePixel a p).pixel a = p := Memory.pixel_writePixel_same hm a p
    exact ⟨congrArg Pixel.r readback, congrArg Pixel.g readback, congrArg Pixel.b readback, congrArg Pixel.a readback⟩
  · exact fun p => ⟨p.word_r, p.word_g, p.word_b, p.word_a⟩

end Sys2Proof
end

section
/-! The encoding of 30_encoding.md: decoding and encoding undo each other on legal words (R61 to R66), the opcode map's
rows are exactly the encoded words (R65), and what an illegal word or SET of a read-only register does (R67, R68). -/

namespace Sys2Proof

/-! Decoding and encoding undo each other. -/

theorem decode_encode {i : Instr} (hwf : i.wf = true) : decode (encode i) = .ok i := by
  cases i with
  | set reg imm =>
    have hreg : reg ≠ 15#4 := by simpa [Instr.wf] using hwf
    have hselect : decode (formatS opSet reg imm) = decodeS .set (formatS opSet reg imm) := by simp [decode]
    simp [encode, hselect, decodeS, hreg]
  | l2g k =>
    have hselect : decode (formatB opL2g k) = decodeB .l2g (formatB opL2g k) := by simp +decide [decode]
    simp [encode, hselect, decodeB]
  | cvty k =>
    have hselect : decode (formatB opCvty k) = decodeB .cvty (formatB opCvty k) := by simp +decide [decode]
    simp [encode, hselect, decodeB]
  | reset | g2l | rgb2y | rgb2u | rgb2v | accum | accum1 | accuma | cvtuv => decide

section
variable {w : Word} {j : Instr}

theorem encode_of_decodeZ {i : Instr} (hi : encode i = formatZ (opField w)) (hwf : i.wf = true)
    (h : decodeZ i w = .ok j) : encode j = w ∧ j.wf = true := by
  obtain ⟨hzero, rfl⟩ := decodeZ_ok h
  exact ⟨hi.trans (formatZ_of_fields hzero), hwf⟩

theorem encode_of_decodeB {i : BitVec 1 → Instr} (hi : ∀ k, encode (i k) = formatB (opField w) k)
    (hwf : ∀ k, (i k).wf = true) (h : decodeB i w = .ok j) : encode j = w ∧ j.wf = true := by
  obtain ⟨hzero, rfl⟩ := decodeB_ok h
  exact ⟨(hi _).trans (formatB_of_fields hzero), hwf _⟩

theorem encode_set_of_fields (hop : opField w = opSet) : encode (.set (regField w) (immField w)) = w := by
  rw [encode, ← hop, formatS_of_fields]

theorem encode_of_decodeS (hop : opField w = opSet) (h : decodeS .set w = .ok j) : encode j = w ∧ j.wf = true := by
  obtain ⟨hreg, rfl⟩ := decodeS_ok h
  exact ⟨encode_set_of_fields hop, bne_iff_ne.mpr hreg⟩

/-- Along the decoder's tests of `op`, in its order: SET, two of format Z, L2G, seven of format Z, CVTY. -/
theorem encode_of_decode (h : decode w = .ok j) : encode j = w ∧ j.wf = true := by
  rcases ok_of_ite h with ⟨hop, h⟩ | ⟨-, h⟩
  · exact encode_of_decodeS hop h
  iterate 2
    rcases ok_of_ite h with ⟨hop, h⟩ | ⟨-, h⟩
    · exact encode_of_decodeZ (hop ▸ rfl) rfl h
  rcases ok_of_ite h with ⟨hop, h⟩ | ⟨-, h⟩
  · exact encode_of_decodeB (fun _ => hop ▸ rfl) (fun _ => rfl) h
  iterate 7
    rcases ok_of_ite h with ⟨hop, h⟩ | ⟨-, h⟩
    · exact encode_of_decodeZ (hop ▸ rfl) rfl h
  rcases ok_of_ite h with ⟨hop, h⟩ | ⟨-, h⟩
  · exact encode_of_decodeB (fun _ => hop ▸ rfl) (fun _ => rfl) h
  cases h

end

/-! The opcode map. -/

theorem OpcodeRow.hit_iff {r : OpcodeRow} {w : Word} : r.hit w = true ↔ w &&& r.mask = r.matchBits := beq_iff_eq

/-- A field the mask covers reads as it does in the row's match. -/
theorem OpcodeRow.extractLsb'_of_hit {r : OpcodeRow} {w : Word} (h : r.hit w = true) (start len : Nat)
    (hmask : r.mask.extractLsb' start len = BitVec.allOnes len) :
    w.extractLsb' start len = r.matchBits.extractLsb' start len := by
  rw [← OpcodeRow.hit_iff.mp h, BitVec.extractLsb'_and, hmask, BitVec.and_allOnes]

/-- A row whose mask covers the whole word is matched by its match alone. -/
theorem OpcodeRow.eq_matchBits_of_hit {r : OpcodeRow} {w : Word} (h : r.hit w = true)
    (hmask : r.mask = BitVec.allOnes 32) : w = r.matchBits := by
  rw [← OpcodeRow.hit_iff.mp h, hmask, BitVec.and_allOnes]

theorem mem_opcodeTable_iff {r : OpcodeRow} : r ∈ opcodeTable ↔ ∃ i : Instr, i.row = r := by
  constructor
  · intro h
    obtain ⟨i, -, hi⟩ := List.mem_map (l := [.set 0 0, .reset, .g2l, .l2g 0, .rgb2y, .rgb2u, .rgb2v, .accum, .accum1,
      .accuma, .cvtuv, .cvty 0]) (f := Instr.row) |>.mp h
    exact ⟨i, hi⟩
  · rintro ⟨i, rfl⟩
    cases i <;> simp [opcodeTable, Instr.row]

theorem row_hit_encode : ∀ i : Instr, i.row.hit (encode i) = true
  | .set reg imm => Laws.TableRow.set reg imm
  | .reset => Laws.TableRow.reset
  | .g2l => Laws.TableRow.g2l
  | .l2g k => Laws.TableRow.l2g k
  | .rgb2y => Laws.TableRow.rgb2y
  | .rgb2u => Laws.TableRow.rgb2u
  | .rgb2v => Laws.TableRow.rgb2v
  | .accum => Laws.TableRow.accum
  | .accum1 => Laws.TableRow.accum1
  | .accuma => Laws.TableRow.accuma
  | .cvtuv => Laws.TableRow.cvtuv
  | .cvty k => Laws.TableRow.cvty k

theorem opField_mask_of_mem_opcodeTable : ∀ r ∈ opcodeTable, opField r.mask = BitVec.allOnes 6 := by decide

theorem opField_of_hit {r : OpcodeRow} (hr : r ∈ opcodeTable) {w : Word} (h : r.hit w = true) :
    opField w = opField r.matchBits :=
  OpcodeRow.extractLsb'_of_hit h 26 6 (opField_mask_of_mem_opcodeTable r hr)

theorem opField_of_row_hit {i : Instr} {w : Word} (h : i.row.hit w = true) : opField w = opField (encode i) := by
  have hi : i.row ∈ opcodeTable := mem_opcodeTable_iff.mpr ⟨i, rfl⟩
  exact (opField_of_hit hi h).trans (opField_of_hit hi (row_hit_encode i)).symm

theorem zeroFieldB_of_row_hit {i : Instr} (hmask : i.row.mask = 0xFFFFFFFE#32) {w : Word}
    (h : i.row.hit w = true) : zeroFieldB w = zeroFieldB (encode i) := by
  have hcovered : i.row.mask.extractLsb' 1 25 = BitVec.allOnes 25 := by rw [hmask]; decide
  exact (OpcodeRow.extractLsb'_of_hit h 1 25 hcovered).trans
    (OpcodeRow.extractLsb'_of_hit (row_hit_encode i) 1 25 hcovered).symm

/-- The converse of `row_hit_encode`: a word that matches a row is the encoding of a command of that row. -/
theorem exists_encode_of_row_hit {i : Instr} {w : Word} (h : i.row.hit w = true) :
    ∃ j : Instr, j.row = i.row ∧ encode j = w := by
  cases i with
  | set reg imm =>
    have hop : opField w = opSet := (opField_of_row_hit h).trans (opField_formatS ..)
    exact ⟨.set (regField w) (immField w), rfl, encode_set_of_fields hop⟩
  | l2g k =>
    have hop : opField w = opL2g := (opField_of_row_hit h).trans (opField_formatB ..)
    have hzero : zeroFieldB w = 0#25 := (zeroFieldB_of_row_hit rfl h).trans (zeroFieldB_formatB ..)
    exact ⟨.l2g (kField w), rfl, by rw [encode, ← hop, formatB_of_fields hzero]⟩
  | cvty k =>
    have hop : opField w = opCvty := (opField_of_row_hit h).trans (opField_formatB ..)
    have hzero : zeroFieldB w = 0#25 := (zeroFieldB_of_row_hit rfl h).trans (zeroFieldB_formatB ..)
    exact ⟨.cvty (kField w), rfl, by rw [encode, ← hop, formatB_of_fields hzero]⟩
  | reset | g2l | rgb2y | rgb2u | rgb2v | accum | accum1 | accuma | cvtuv =>
    exact ⟨_, rfl, (OpcodeRow.eq_matchBits_of_hit h rfl).symm⟩

/-- No two rows share an opcode. -/
theorem opcodeTable_ops_nodup : (opcodeTable.map fun r => opField r.matchBits).Nodup := by decide

theorem row_unique_of_hit {r q : OpcodeRow} (hr : r ∈ opcodeTable) (hq : q ∈ opcodeTable) {w : Word}
    (hrw : r.hit w = true) (hqw : q.hit w = true) : r = q :=
  List.inj_on_of_nodup_map opcodeTable_ops_nodup hr hq ((opField_of_hit hr hrw).symm.trans (opField_of_hit hq hqw))

theorem formatS_and (op op' : BitVec 6) (reg reg' : BitVec 4) (imm imm' : BitVec 22) :
    formatS op reg imm &&& formatS op' reg' imm' = formatS (op &&& op') (reg &&& reg') (imm &&& imm') :=
  (BitVec.and_append (x₁ := op ++ reg) (x₂ := op' ++ reg')).trans
    (congrArg (· ++ (imm &&& imm')) BitVec.and_append)

/-- R68's exception, read off the word: the one ill-formed instruction is the one whose word is SET with reg = 15. -/
theorem wf_iff_encode_and_ne (i : Instr) : i.wf = true ↔ encode i &&& 0xFFC00000#32 ≠ 0x07C00000#32 := by
  cases i with
  | set reg imm =>
    have hmasked : formatS opSet reg imm &&& 0xFFC00000#32 = formatS opSet reg 0#22 := by
      rw [show 0xFFC00000#32 = formatS (BitVec.allOnes 6) (BitVec.allOnes 4) 0#22 from rfl,
        formatS_and, BitVec.and_allOnes, BitVec.and_allOnes, BitVec.and_zero]
    have hfifteen : formatS opSet reg 0#22 = 0x07C00000#32 ↔ reg = 15#4 :=
      ⟨fun h => (regField_formatS ..).symm.trans (congrArg regField h), fun h => h ▸ rfl⟩
    rw [encode, hmasked, Ne, hfifteen, Instr.wf, bne_iff_ne]
  | l2g k => revert k; decide
  | cvty k => revert k; decide
  | reset | g2l | rgb2y | rgb2u | rgb2v | accum | accum1 | accuma | cvtuv => decide

/-- The statement's number for SET is the encoder's word. -/
theorem setWord_eq_encode (reg : BitVec 4) (imm : BitVec 22) : Spec.setWord reg imm = encode (.set reg imm) := by
  have hreg := reg.isLt
  have himm := imm.isLt
  have hor : (opSet.toNat <<< 4 ||| reg.toNat) <<< 22 ||| imm.toNat = 2 ^ 26 + reg.toNat * 2 ^ 22 + imm.toNat := by
    rw [← Nat.shiftLeft_add_eq_or_of_lt hreg, ← Nat.shiftLeft_add_eq_or_of_lt himm]
    simp only [opSet, Nat.shiftLeft_eq, BitVec.toNat_ofNat]
    omega
  apply BitVec.eq_of_toNat_eq
  rw [Spec.setWord, encode, formatS, BitVec.toNat_append, BitVec.toNat_append, hor, BitVec.toNat_ofNat]
  omega

end Sys2Proof

namespace Sys2Proof.Machine

/-! Issuing a word the decoder rejects, and SET of a read-only register. -/

theorem issue_of_illegal {w : Word} (h : ∀ i, decode w ≠ .ok i) (s : State) :
    issue w s = gate s (.next (s.raise .illegal w)) := by
  unfold issue
  split
  next i hi => exact absurd hi (h i)
  next => rfl

theorem not_decode_of_illegal {w : Word}
    (h : (∀ r ∈ opcodeTable, r.hit w = false) ∨ w &&& 0xFFC00000#32 = 0x07C00000#32) (i : Instr) : decode w ≠ .ok i := by
  intro hdecode
  obtain ⟨rfl, hwf⟩ := encode_of_decode hdecode
  rcases h with hmiss | hfifteen
  · exact absurd (row_hit_encode i) (by simp [hmiss _ (mem_opcodeTable_iff.mpr ⟨i, rfl⟩)])
  · exact (wf_iff_encode_and_ne i).mp hwf hfifteen

theorem exec_set_readOnly {s : State} (hr : s.status = 0#4) {reg : BitVec 4} {r : RoReg}
    (hreg : Reg.ofNum? reg = some (.ro r)) (imm : BitVec 22) :
    exec (.set reg imm) s = .next (s.raise .operand (encode (.set reg imm))) := by
  refine (gate_run hr _).trans ?_
  rw [hreg]
  rfl

theorem Reg.ofNum?_readOnly : ∀ reg ∈ [11#4, 12#4, 13#4, 14#4], ∃ r, Reg.ofNum? reg = some (.ro r) := by
  simp [Reg.ofNum?]

end Sys2Proof.Machine

namespace Sys2Proof

open Sys2Proof.Machine

/-- Settles O2: the encoded opcode selects its own format's test, and each field reads back what was put there. -/
theorem decodeOfEncodeIsTheInstruction : Obligations.DecodeOfEncodeIsTheInstruction := by
  unfold Obligations.DecodeOfEncodeIsTheInstruction
  exact fun _ hwf => decode_encode hwf

/-- Settles O3: a decoded word passed its format's test, so it is its own fields put together again. -/
theorem encodeOfDecodeIsTheWord : Obligations.EncodeOfDecodeIsTheWord := by
  unfold Obligations.EncodeOfDecodeIsTheWord
  exact fun _ _ h => encode_of_decode h

/-- Settles O4: the words that match a row are the encodings of its commands, and no two rows share an opcode. -/
theorem opcodeMapDecidesWhatDecodes : Obligations.OpcodeMapDecidesWhatDecodes := by
  unfold Obligations.OpcodeMapDecidesWhatDecodes
  refine ⟨fun w i h => ?decoded, fun w r hr hhit hnot => ?matched, fun w r hr q hq => row_unique_of_hit hr hq⟩
  case decoded =>
    obtain ⟨rfl, -⟩ := encode_of_decode h
    exact ⟨mem_opcodeTable_iff.mpr ⟨i, rfl⟩, row_hit_encode i⟩
  case matched =>
    obtain ⟨i, rfl⟩ := mem_opcodeTable_iff.mp hr
    obtain ⟨j, hrow, rfl⟩ := exists_encode_of_row_hit hhit
    exact ⟨j, decode_encode ((wf_iff_encode_and_ne j).mpr hnot), hrow⟩

/-- Settles O6: an illegal word decodes to nothing, so issuing it faults; SET 11 to 14 decodes and its check faults. -/
theorem illegalWordRaisesEIllegal : Obligations.IllegalWordRaisesEIllegal := by
  unfold Obligations.IllegalWordRaisesEIllegal
  intro s hwf hrun
  refine ⟨fun w rest hport hillegal => ?illegal, fun w rest hport reg hmem imm hw => ?readOnly⟩
  case illegal =>
    calc step s = issue w (s.withPort rest) := step_of_pending hwf hport
      _ = gate (s.withPort rest) (.next ((s.withPort rest).raise .illegal w)) :=
        issue_of_illegal (not_decode_of_illegal hillegal) _
      _ = .next ((s.withPort rest).raise .illegal w) := gate_run (s := s.withPort rest) hrun _
  case readOnly =>
    obtain ⟨r, hreg⟩ := Reg.ofNum?_readOnly reg hmem
    have hne : reg ≠ 15#4 := fun h => by simp [Reg.ofNum?_none.mpr h] at hreg
    rw [setWord_eq_encode] at hw
    subst hw
    have hdecode := decode_encode (i := .set reg imm) (bne_iff_ne.mpr hne)
    exact ⟨hdecode, (step_of_decoded_command hwf hport hdecode).trans
      (exec_set_readOnly (s := s.withPort rest) hrun hreg imm)⟩

/-- Settles O1 by running the decoder on each word. -/
theorem specWordsDecodeToTheirCommands : Obligations.SpecWordsDecodeToTheirCommands := by
  unfold Obligations.SpecWordsDecodeToTheirCommands
  decide

end Sys2Proof
end

section
/-! The control commands of 40_control.md: what SET does at each of its checks and with the registers that have none
(R80, R81), and which words with RESET's opcode are not RESET (R83). -/

namespace Sys2Proof

/-! The words with RESET's opcode. -/

theorem opField_of_and_opMask {w m : Word} (h : w &&& 0xFC000000#32 = m) : opField w = opField m := by
  have hmask : (0xFC000000#32).extractLsb' 26 6 = BitVec.allOnes 6 := by decide
  rw [← h, opField, opField, BitVec.extractLsb'_and, hmask, BitVec.and_allOnes]

theorem decode_of_opField_reset {w : Word} (hop : opField w = opReset) : decode w = decodeZ .reset w := by
  rw [decode, hop]
  rfl

/-- RESET is of format Z: of the words with its opcode only the one with w[25:0] = 0 is legal (30_encoding.md R67). -/
theorem eq_reset_word_of_decode {w : Word} {i : Instr} (hop : opField w = opReset) (h : decode w = .ok i) :
    w = 0x08000000#32 := by
  obtain ⟨hzero, -⟩ := decodeZ_ok ((decode_of_opField_reset hop).symm.trans h)
  rw [← formatZ_of_fields hzero, hop]
  rfl

end Sys2Proof

namespace Sys2Proof.Machine

theorem step_of_illegal_command {s : State} (hwf : s.cfg.wf = true) {w : Word} {rest : List HostAction}
    (hport : s.port = .command w :: rest) (h : ∀ i, decode w ≠ .ok i) :
    step s = gate (s.withPort rest) (.next ((s.withPort rest).raise .illegal w)) :=
  (step_of_pending hwf hport).trans (issue_of_illegal h _)

theorem exec_reset (s : State) : exec .reset s = .next (Spec.cleared s) := rfl

/-! SET in the run state, check by check. -/

section
variable {s : State} (hrun : s.status = 0#4) {imm : BitVec 22}
include hrun

theorem exec_set_noRegister : exec (.set 15#4 imm) s = .next (s.raise .illegal (encode (.set 15#4 imm))) :=
  gate_run hrun _

theorem exec_set_width_outOfRange (h : imm.toNat = 0 ∨ s.cfg.wmax < imm.toNat) :
    exec (.set 0#4 imm) s = .next (s.raise .width (encode (.set 0#4 imm))) :=
  (gate_run hrun _).trans (if_pos ⟨rfl, h⟩)

theorem exec_set_rnd_tooLarge (h : 2 ^ 18 ≤ imm.toNat) :
    exec (.set 10#4 imm) s = .next (s.raise .operand (encode (.set 10#4 imm))) :=
  (gate_run hrun _).trans ((if_neg (by simp)).trans (if_pos ⟨rfl, h⟩))

theorem exec_set_width_inRange (h0 : imm.toNat ≠ 0) (hmax : imm.toNat ≤ s.cfg.wmax) :
    exec (.set 0#4 imm) s = .next (s.writeReg .width imm) :=
  exec_of_completes hrun (.set rfl (by omega) (by simp))

theorem exec_set_rnd_inRange (h : imm.toNat < 2 ^ 18) :
    exec (.set 10#4 imm) s = .next (s.writeReg .rnd imm) :=
  exec_of_completes hrun (.set rfl (by simp) (by omega))

/-- The registers other than WIDTH and RND take every immediate (40_control.md R81). -/
theorem exec_set_unchecked {reg : BitVec 4} (r : RwReg) (hreg : Reg.ofNum? reg = some (.rw r))
    (hr : r ≠ .width ∧ r ≠ .rnd := by decide) : exec (.set reg imm) s = .next (s.writeReg r imm) :=
  exec_of_completes hrun (.set hreg (fun h => hr.1 h.1) (fun h => hr.2 h.1))

end

/-- A WIDTH that SET takes fits the register's 14 bits, since WMAX does (00_scope.md R6). -/
theorem toNat_setWidth_of_le_wmax {c : Config} (hwf : c.wf = true) {imm : BitVec 22} (h : imm.toNat ≤ c.wmax) :
    (imm.setWidth 14).toNat = imm.toNat := by
  have hmax := Config.wmax_le hwf
  rw [BitVec.toNat_setWidth, Nat.mod_eq_of_lt (by omega)]

end Sys2Proof.Machine

namespace Sys2Proof

open Sys2Proof.Machine

/-- Settles O11: the four faults, then WIDTH and RND in range, then the registers that take every immediate. -/
theorem setFollowsItsPseudocode : Obligations.SetFollowsItsPseudocode := by
  unfold Obligations.SetFollowsItsPseudocode
  intro reg imm s hwf hrun
  simp only [setWord_eq_encode]
  refine ⟨?noRegister, ?readOnly, ?widthOutOfRange, ?rndTooLarge, ?widthInRange, ?rndInRange,
    fun h => exec_set_unchecked hrun .src0 (h ▸ rfl), fun h => exec_set_unchecked hrun .src1 (h ▸ rfl),
    fun h => exec_set_unchecked hrun .ydst0 (h ▸ rfl), fun h => exec_set_unchecked hrun .ydst1 (h ▸ rfl),
    fun h => exec_set_unchecked hrun .udst (h ▸ rfl), fun h => exec_set_unchecked hrun .vdst (h ▸ rfl),
    fun h => exec_set_unchecked hrun .a0 (h ▸ rfl), fun h => exec_set_unchecked hrun .a1 (h ▸ rfl),
    fun h => exec_set_unchecked hrun .a2 (h ▸ rfl)⟩
  case noRegister =>
    rintro rfl
    exact exec_set_noRegister hrun
  case readOnly =>
    intro hreg
    obtain ⟨r, hr⟩ := Reg.ofNum?_readOnly reg (by simpa using hreg)
    exact exec_set_readOnly hrun hr imm
  case widthOutOfRange =>
    rintro ⟨rfl, h⟩
    exact exec_set_width_outOfRange hrun h
  case rndTooLarge =>
    rintro ⟨rfl, h⟩
    exact exec_set_rnd_tooLarge hrun h
  case widthInRange =>
    rintro ⟨rfl, h0, hmax⟩
    exact ⟨_, toNat_setWidth_of_le_wmax hwf hmax, exec_set_width_inRange hrun h0 hmax⟩
  case rndInRange =>
    rintro ⟨rfl, h⟩
    exact ⟨_, (BitVec.toNat_setWidth 18 imm).trans (Nat.mod_eq_of_lt h), exec_set_rnd_inRange hrun h⟩

/-- Settles O12: RESET is the one legal word of its opcode, so every other one is illegal and meets the gate. -/
theorem resetCommandClearsTheBlock : Obligations.ResetCommandClearsTheBlock := by
  unfold Obligations.ResetCommandClearsTheBlock
  refine ⟨decode_reset_word, fun w hmask hne s rest hwf hport => ?_, exec_reset⟩
  have hop : opField w = opReset := opField_of_and_opMask hmask
  have hstep := step_of_illegal_command hwf hport fun i h => hne (eq_reset_word_of_decode hop h)
  exact ⟨fun hrun => hstep.trans (gate_run (s := s.withPort rest) hrun _),
    fun hfault => hstep.trans (gate_discards (s := s.withPort rest) hfault _)⟩

end Sys2Proof
end

section
/-! The gamma functions of 41_gamma.md: LinearToGamma as the interpolation between two neighbouring table entries
(R92, R93), the interpolation's bounds and monotonicity (R97), the commands G2L and L2G (R95, R96), the entry of a
uniform block or tail (R98) and its value under the LIN and REF tables (R99). -/

namespace Sys2Proof.Spec

/-! The interpolation between two entries `v0` and `v1`. -/

/-- Interpolating between two equal entries gives 4 times the entry: the weights add up to S = 4 · 2^TAB_FIX, and the
rounding constant 2^(TAB_FIX−1) is below the divisor. -/
theorem between_self {fix x : Nat} (hfix : 1 ≤ fix) (hx : x ≤ 2 ^ (fix + 2)) (v : Nat) : between fix v v x = 4 * v := by
  have hweights : v * x + v * (2 ^ (fix + 2) - x) = 2 ^ fix * (4 * v) := by
    rw [← Nat.mul_add, Nat.add_sub_cancel' hx, pow_add]
    ring
  have hround : 2 ^ (fix - 1) < 2 ^ fix := Nat.pow_lt_pow_right (by decide) (by omega)
  rw [between, hweights, Nat.mul_add_div (by positivity), Nat.div_eq_of_lt hround, Nat.add_zero]

theorem between_zero {fix : Nat} (hfix : 1 ≤ fix) (v0 v1 : Nat) : between fix v0 v1 0 = 4 * v0 := by
  rw [← between_self hfix (Nat.zero_le _) v0, between, between, Nat.mul_zero, Nat.mul_zero]

theorem between_mono_entries (fix x : Nat) {v0 v1 w0 w1 : Nat} (h0 : v0 ≤ w0) (h1 : v1 ≤ w1) :
    between fix v0 v1 x ≤ between fix w0 w1 x := by
  unfold between
  gcongr

/-- Moving the fraction up moves weight from `v0` to the larger `v1`. -/
theorem between_mono_frac {fix x y v0 v1 : Nat} (hv : v0 ≤ v1) (hxy : x ≤ y) (hy : y ≤ 2 ^ (fix + 2)) :
    between fix v0 v1 x ≤ between fix v0 v1 y := by
  have hsum : v1 * x + v0 * (2 ^ (fix + 2) - x) ≤ v1 * y + v0 * (2 ^ (fix + 2) - y) :=
    calc v1 * x + v0 * (2 ^ (fix + 2) - x)
        = v1 * x + v0 * (y - x) + v0 * (2 ^ (fix + 2) - y) := by
          rw [Nat.add_assoc, ← Nat.mul_add, Nat.add_comm (y - x), Nat.sub_add_sub_cancel hy hxy]
      _ ≤ v1 * x + v1 * (y - x) + v0 * (2 ^ (fix + 2) - y) := by gcongr
      _ = v1 * y + v0 * (2 ^ (fix + 2) - y) := by rw [← Nat.mul_add, Nat.add_sub_cancel' hxy]
  unfold between
  gcongr

theorem between_le_four_mul_max {fix x : Nat} (hfix : 1 ≤ fix) (hx : x ≤ 2 ^ (fix + 2)) (v0 v1 : Nat) :
    between fix v0 v1 x ≤ 4 * max v0 v1 :=
  (between_mono_entries fix x (Nat.le_max_left v0 v1) (Nat.le_max_right v0 v1)).trans_eq (between_self hfix hx _)

theorem four_mul_le_between {fix x v0 v1 : Nat} (hfix : 1 ≤ fix) (hx : x ≤ 2 ^ (fix + 2)) (hv : v0 ≤ v1) :
    4 * v0 ≤ between fix v0 v1 x :=
  (between_self hfix hx v0).symm.trans_le (between_mono_entries fix x (Nat.le_refl v0) hv)

/-! LinearToGamma as the statements write it. -/

theorem frac_le (n fix : Nat) : n % 2 ^ (fix + 2) ≤ 2 ^ (fix + 2) := (Nat.mod_lt n (by positivity)).le

/-- LinearToGamma reads its arguments as base << shift only (R92). -/
theorem recompress_congr (c : Config) {b k b' k' : Nat} (h : b * 2 ^ k = b' * 2 ^ k') :
    recompress c b k = recompress c b' k' := by
  rw [recompress, recompress, h]

/-- R97 (d). -/
theorem recompress_le_four_mul_max {c : Config} (hfix : 1 ≤ c.tabFix) (b k : Nat) :
    recompress c b k ≤ 4 * max (c.l2g.getD (b * 2 ^ k / 2 ^ (c.tabFix + 2)) 0)
      (c.l2g.getD (b * 2 ^ k / 2 ^ (c.tabFix + 2) + 1) 0) :=
  between_le_four_mul_max hfix (frac_le _ _) _ _

/-- R97 (c). At one table position the fraction decides. Across positions the two values are separated by 4 times the
entry after the lower position, which is at most the entry at the upper one. -/
theorem recompress_mono {c : Config} (hfix : 1 ≤ c.tabFix)
    (htab : ∀ m n, m ≤ n → n ≤ c.tabSize → c.l2g.getD m 0 ≤ c.l2g.getD n 0) {b k b' k' : Nat}
    (hle : b * 2 ^ k ≤ b' * 2 ^ k') (hpos : b' * 2 ^ k' / 2 ^ (c.tabFix + 2) < c.tabSize) :
    recompress c b k ≤ recompress c b' k' := by
  have hentries := htab _ _ (Nat.le_succ _) hpos
  rcases (Nat.div_le_div_right (c := 2 ^ (c.tabFix + 2)) hle).eq_or_lt with heq | hlt
  · have hfrac : b * 2 ^ k % 2 ^ (c.tabFix + 2) ≤ b' * 2 ^ k' % 2 ^ (c.tabFix + 2) := by
      rw [Nat.mod_def, Nat.mod_def, heq]
      exact Nat.sub_le_sub_right hle _
    simp only [recompress, heq]
    exact between_mono_frac hentries hfrac (frac_le _ _)
  · have hlower := htab _ _ (Nat.le_succ _) (Nat.le_trans hlt hpos.le)
    calc recompress c b k
        ≤ 4 * c.l2g.getD (b * 2 ^ k / 2 ^ (c.tabFix + 2) + 1) 0 :=
          (recompress_le_four_mul_max hfix b k).trans_eq (congrArg (4 * ·) (Nat.max_eq_right hlower))
      _ ≤ 4 * c.l2g.getD (b' * 2 ^ k' / 2 ^ (c.tabFix + 2)) 0 := Nat.mul_le_mul_left 4 (htab _ _ hlt hpos.le)
      _ ≤ recompress c b' k' := four_mul_le_between hfix (frac_le _ _) hentries

end Sys2Proof.Spec

namespace Sys2Proof.Machine

open Sys2Proof.Spec

/-- The model's LinearToGamma is the one the statements write over division and remainder. -/
theorem linearToGamma_eq_recompress (c : Config) (base shift : Nat) :
    linearToGamma c base shift = recompress c base shift := by
  simp only [linearToGamma, tablePos_eq, tableFrac_eq, Nat.shiftRight_eq_div_pow]
  rfl

/-! The entries of a uniform block and a uniform tail (R98). -/

theorem blockLane_uniform (c : Config) (p : Sample) : blockLane c p p p p = BitVec.ofNat 16 (uniformEntry c p.toNat) := by
  have hsum (g : Nat) : (g + g + g + g) * 2 ^ 0 = 4 * g * 2 ^ 0 := by ring
  rw [blockLane, linearToGamma_eq_recompress, recompress_congr c (hsum _)]
  rfl

theorem tailLane_uniform (c : Config) (p : Sample) : tailLane c p p = BitVec.ofNat 16 (uniformEntry c p.toNat) := by
  have hsum (g : Nat) : (g + g) * 2 ^ 1 = 4 * g * 2 ^ 0 := by ring
  rw [tailLane, linearToGamma_eq_recompress, recompress_congr c (hsum _)]
  rfl

theorem blockEntry_uniform (c : Config) (p : Pixel) :
    blockEntry c p p p p =
      ⟨BitVec.ofNat 16 (uniformEntry c p.r.toNat), BitVec.ofNat 16 (uniformEntry c p.g.toNat),
        BitVec.ofNat 16 (uniformEntry c p.b.toNat)⟩ := by
  simp only [blockEntry, blockLane_uniform]

theorem tailEntry_uniform (c : Config) (p : Pixel) : tailEntry c p p = blockEntry c p p p p := by
  simp only [tailEntry, blockEntry, tailLane_uniform, blockLane_uniform]

/-! The table reads of a well-formed configuration. -/

theorem Config.table_lengths {c : Config} (h : c.wf = true) : c.g2l.length = 256 ∧ c.l2g.length = c.tabSize + 1 := by
  obtain ⟨hsized, -⟩ := Config.wf_parts h
  simp only [Config.tablesSized, Bool.and_eq_true, beq_iff_eq] at hsized
  obtain ⟨⟨hg2l, -⟩, hl2g⟩ := hsized
  exact ⟨hg2l, hl2g⟩

theorem getElem?_eq_some_getD {l : List Nat} {k : Nat} (h : k < l.length) : l[k]? = some (l.getD k 0) := by
  rw [List.getD_eq_getElem _ _ h, List.getElem?_eq_getElem h]

theorem Config.g2l_getElem? {c : Config} (h : c.wf = true) {v : Nat} (hv : v ≤ 255) :
    c.g2l[v]? = some (gammaToLinear c v) :=
  getElem?_eq_some_getD (by rw [(Config.table_lengths h).1]; omega)

theorem Config.l2g_getElem? {c : Config} (h : c.wf = true) {k : Nat} (hk : k ≤ c.tabSize) :
    c.l2g[k]? = some (l2gEntry c k) :=
  getElem?_eq_some_getD (by rw [(Config.table_lengths h).2]; omega)

/-! G2L and L2G in the run state. -/

/-- A value RES takes is at most 65535 (10_state.md R17), and so fits its 22 bits. -/
theorem toNat_res_of_le {v : Nat} (h : v ≤ 65535) : (BitVec.ofNat 22 v).toNat = v := by
  rw [BitVec.toNat_ofNat, Nat.mod_eq_of_lt (by omega)]

section
variable {s : State} (hrun : s.status = 0#4)
include hrun

theorem exec_g2l_notSample (h : 255 < s.a0.toNat) : exec .g2l s = .next (s.raise .operand (encode .g2l)) :=
  (gate_run hrun _).trans (if_pos h)

/-- G2L by the operand and the entry it reads. -/
theorem exec_g2l_of_entry {a e : Nat} (ha : s.a0.toNat = a) (hle : a ≤ 255) (he : gammaToLinear s.cfg a = e) :
    exec .g2l s = .next (s.setRes e) := by
  subst ha he
  exact exec_of_completes hrun (.g2l hle)

theorem exec_l2g_pastTable {k : BitVec 1} (h : s.cfg.tabSize ≤ tablePos s.cfg s.a0.toNat k.toNat) :
    exec (.l2g k) s = .next (s.raise .operand (encode (.l2g k))) :=
  (gate_run hrun _).trans (if_pos h)

end

/-- The two words of L2G (30_encoding.md R63). -/
theorem encode_l2g (k : BitVec 1) : encode (.l2g k) = BitVec.ofNat 32 (0x24000000 + k.toNat) := by
  revert k; decide

/-! The LIN tables (41_gamma.md §6). -/

theorem expand_lin {v : Nat} (h : v < 256) : expand Config.lin v = 16 * v := by
  simp [expand, Config.lin, h]

theorem l2g_lin {k : Nat} (h : k < 33) : Config.lin.l2g.getD k 0 = 8 * k := by
  simp [Config.lin, h]

/-- R99. G2L[v] = 16·v puts 4·G2L[v] at position v / 8 with fraction 64·(v % 8), and L2G[k] = 8·k is a straight line. -/
theorem uniformEntry_lin {v : Nat} (h : v < 256) : uniformEntry Config.lin v = 4 * v := by
  have hpos : 4 * (16 * v) * 2 ^ 0 / 2 ^ (7 + 2) = v / 8 := by omega
  have hfrac : 4 * (16 * v) * 2 ^ 0 % 2 ^ (7 + 2) = 64 * (v % 8) := by omega
  have hline : 8 * (v / 8 + 1) * (64 * (v % 8)) + 8 * (v / 8) * (2 ^ (7 + 2) - 64 * (v % 8)) = 512 * v :=
    calc 8 * (v / 8 + 1) * (64 * (v % 8)) + 8 * (v / 8) * (2 ^ (7 + 2) - 64 * (v % 8))
        = 8 * (v / 8) * (64 * (v % 8) + (2 ^ (7 + 2) - 64 * (v % 8))) + 8 * (64 * (v % 8)) := by ring
      _ = 8 * (v / 8) * 2 ^ (7 + 2) + 8 * (64 * (v % 8)) := by rw [Nat.add_sub_cancel' (by omega)]
      _ = 512 * v := by omega
  rw [uniformEntry, recompress, expand_lin h, show Config.lin.tabFix = 7 from rfl, hpos, hfrac,
    l2g_lin (by omega), l2g_lin (by omega), between, hline]
  omega

theorem blockLane_lin (v : Sample) : (blockLane Config.lin v v v v).toNat = 4 * v.toNat := by
  have hv := v.isLt
  rw [blockLane_uniform, uniformEntry_lin hv, BitVec.toNat_ofNat, Nat.mod_eq_of_lt (by omega)]

/-! The REF tables (41_gamma.md §5): facts about the one table, computed. -/

/-- The four values of e that R99 writes out. -/
theorem uniformEntry_ref :
    uniformEntry Config.ref 0 = 0 ∧ uniformEntry Config.ref 1 = 5 ∧ uniformEntry Config.ref 3 = 11 ∧
      uniformEntry Config.ref 114 = 457 := by
  decide +kernel

theorem count_uniformEntry_ref_ne :
    ((List.range 256).filter (fun v => uniformEntry Config.ref v != 4 * v)).length = 152 := by
  decide +kernel

theorem uniformEntry_ref_within_two (v : Sample) :
    uniformEntry Config.ref v.toNat ≤ 4 * v.toNat + 2 ∧ 4 * v.toNat ≤ uniformEntry Config.ref v.toNat + 2 := by
  revert v
  decide +kernel

end Sys2Proof.Machine

namespace Sys2Proof

open Sys2Proof.Machine Sys2Proof.Spec

/-- Settles O17: each property is one of the interpolation between the two entries of the position. -/
theorem linearToGammaProperties : Obligations.LinearToGammaProperties := by
  unfold Obligations.LinearToGammaProperties
  intro c hfix
  simp only [linearToGamma_eq_recompress]
  refine ⟨fun b k hfrac => ?exact, fun b => ?shift, fun htab b k b' k' hle hpos => ?monotone, fun b k => ?bound⟩
  case exact => rw [recompress, hfrac, between_zero hfix]
  case shift => exact recompress_congr c (by ring)
  case monotone => exact recompress_mono hfix htab hle hpos
  case bound => exact recompress_le_four_mul_max hfix b k

/-- Settles O15: past 255 the check faults; below, the table of 256 entries has the one RES takes. -/
theorem g2lFollowsItsRule : Obligations.G2lFollowsItsRule := by
  unfold Obligations.G2lFollowsItsRule
  refine ⟨decode_encode (i := .g2l) rfl, fun s hwf hrun => ⟨exec_g2l_notSample hrun, fun hle => ?sample, fun href => ?ref⟩⟩
  case sample =>
    exact ⟨_, Config.g2l_getElem? hwf hle, _, toNat_res_of_le (Config.g2l_le hwf _), exec_g2l_of_entry hrun rfl hle rfl⟩
  case ref =>
    have hentry (a : Nat) : gammaToLinear s.cfg a = Config.refG2l.getD a 0 := by rw [gammaToLinear, href]
    exact ⟨fun ha => exec_g2l_of_entry hrun (congrArg _ ha) (by decide) (hentry _),
      fun ha => exec_g2l_of_entry hrun (congrArg _ ha) (by decide) (hentry _),
      fun ha => exec_g2l_of_entry hrun (congrArg _ ha) (by decide) (hentry _)⟩

/-- Settles O16: a position below TAB_SIZE has its own entry and the next one among the TAB_SIZE + 1. -/
theorem l2gFollowsItsRule : Obligations.L2gFollowsItsRule := by
  unfold Obligations.L2gFollowsItsRule
  refine ⟨decode_encode (i := .l2g 0#1) rfl, decode_encode (i := .l2g 1#1) rfl, fun s k hwf hrun => ?_⟩
  rw [← encode_l2g, ← tablePos_eq]
  refine ⟨exec_l2g_pastTable hrun, fun hpos => ⟨_, _, Config.l2g_getElem? hwf hpos.le, Config.l2g_getElem? hwf hpos, ?_⟩⟩
  refine ⟨_, (toNat_res_of_le ((linearToGamma_le hwf _ _).trans (by decide))).trans ?value,
    exec_of_completes hrun (.l2g hpos)⟩
  case value => rw [linearToGamma_eq_recompress, tablePos_eq]; rfl

/-- Settles O18: both sums, shifted, are 4 times the expanded Sample. -/
theorem uniformBlockAndTailAgree : Obligations.UniformBlockAndTailAgree := by
  unfold Obligations.UniformBlockAndTailAgree
  exact fun c p => ⟨(tailEntry_uniform c p).symm, blockEntry_uniform c p⟩

/-- Settles O19: under LIN by the straight line of its table, under REF by computing its 256 entries. -/
theorem linIsBoxExactAndRefIsNot : Obligations.LinIsBoxExactAndRefIsNot := by
  unfold Obligations.LinIsBoxExactAndRefIsNot
  intro e
  have he (c : Config) (v : Nat) : e c v = uniformEntry c v := linearToGamma_eq_recompress c _ 0
  obtain ⟨h0, h1, h3, h114⟩ := uniformEntry_ref
  simp only [he]
  refine ⟨fun v => ⟨uniformEntry_lin v.isLt, blockLane_lin v⟩, h0, h1, h3, h114, count_uniformEntry_ref_ne,
    uniformEntry_ref_within_two, ?entries, by decide, fun a => ?block⟩
  case entries => rw [h0, h1]; decide
  case block =>
    have hblack : uniformEntry Config.ref (0 : Sample).toNat = 0 := h0
    have hblue : uniformEntry Config.ref (1 : Sample).toNat = 5 := h1
    simp only [blockEntry_uniform, hblack, hblue]
    decide

end Sys2Proof
end

section
/-! The chroma accumulator of 42_accumulate.md: the entries ACCUM leaves, in order, and its faults (R111, R114), the
bound on its table positions and lanes (R113), a second ACCUM (R115), ACCUM1 and ACCUMA (R116, R117), and the alpha lanes
no command reads (R118). -/

namespace Sys2Proof.Machine

open Sys2Proof.Spec

/-! The lanes of a block and of a tail column. -/

theorem blockLane_eq_recompress (c : Config) (p q r t : Sample) :
    blockLane c p q r t = BitVec.ofNat 16
      (recompress c (expand c p.toNat + expand c q.toNat + expand c r.toNat + expand c t.toNat) 0) :=
  congrArg (BitVec.ofNat 16) (linearToGamma_eq_recompress c _ 0)

theorem tailLane_eq_recompress (c : Config) (p q : Sample) :
    tailLane c p q = BitVec.ofNat 16 (recompress c (expand c p.toNat + expand c q.toNat) 1) :=
  congrArg (BitVec.ofNat 16) (linearToGamma_eq_recompress c _ 1)

/-- LinearToGamma's bound 65532 fits a 16-bit lane. -/
theorem toNat_recompress {c : Config} (hwf : c.wf = true) (b k : Nat) :
    (BitVec.ofNat 16 (recompress c b k)).toNat = recompress c b k := by
  have hle := linearToGamma_le hwf b k
  rw [linearToGamma_eq_recompress] at hle
  rw [BitVec.toNat_ofNat, Nat.mod_eq_of_lt (by omega)]

/-- WF2 bounds the table position of every sum up to that of four expanded Samples (00_scope.md R6). -/
theorem Config.div_lt_tabSize_of_le {c : Config} (hwf : c.wf = true) {n : Nat} (hn : n ≤ 4 * c.maxG2l) :
    n / 2 ^ (c.tabFix + 2) < c.tabSize :=
  (Nat.div_le_div_right hn).trans_lt (Config.four_mul_maxG2l_div_lt_tabSize hwf)

theorem expand_le_max (c : Config) (v : Nat) : expand c v ≤ c.maxG2l := gammaToLinear_le_max c v

/-! The entries ACCUM leaves. -/

theorem blockAt_eq_accEntry {s : State} {i : Nat} (h : 2 * i + 1 < s.width.toNat) : s.blockAt i = accEntry s i := by
  simp only [State.blockAt, blockEntry, blockLane_eq_recompress, accEntry, accLane, if_pos h]
  rfl

theorem tailAt_eq_accEntry {s : State} {i : Nat} (h : s.width.toNat = 2 * i + 1) : s.tailAt = accEntry s i := by
  have hlast : s.width.toNat - 1 = 2 * i := by omega
  have hnone : ¬ 2 * i + 1 < s.width.toNat := by omega
  simp only [State.tailAt, hlast, tailEntry, tailLane_eq_recompress, accEntry, accLane, if_neg hnone]
  rfl

/-- The full blocks and the tail column, if there is one, are ⌈WIDTH/2⌉ entries of one rule (R111, R114). -/
theorem accumulated_eq_map (s : State) :
    s.accumulated = (List.range ((s.width.toNat + 1) / 2)).map (accEntry s) := by
  have hblocks : (List.range (s.width.toNat / 2)).map s.blockAt = (List.range (s.width.toNat / 2)).map (accEntry s) :=
    List.map_congr_left fun i hi => blockAt_eq_accEntry (by have := List.mem_range.mp hi; omega)
  rw [State.accumulated, Nat.shiftRight_eq_div_pow, Nat.pow_one, hblocks]
  split
  case isTrue hodd =>
    have hcount : (s.width.toNat + 1) / 2 = s.width.toNat / 2 + 1 := by omega
    have htail : s.tailAt = accEntry s (s.width.toNat / 2) := tailAt_eq_accEntry (by omega)
    rw [hcount, List.range_succ, List.map_append, htail]
    rfl
  case isFalse heven =>
    have hcount : (s.width.toNat + 1) / 2 = s.width.toNat / 2 := by omega
    rw [hcount, List.append_nil]

theorem accumulated_getElem? {s : State} {i : Nat} (hi : i < (s.width.toNat + 1) / 2) :
    s.accumulated[i]? = some (accEntry s i) := by
  rw [accumulated_eq_map, List.getElem?_map, List.getElem?_range hi]
  rfl

/-! The accumulator commands, in the run state and in the fault state; what a second ACCUM finds. -/

section
variable {s : State} (hrun : s.status = 0#4)
include hrun

theorem exec_accum_zeroWidth (h : s.width.toNat = 0) :
    exec .accum s = .next (s.raise .width (encode .accum)) :=
  (gate_run hrun _).trans (if_pos h)

/-- Both bounds checks raise the same fault, so which of them fails does not show. -/
theorem exec_accum_outOfBounds (hw : s.width.toNat ≠ 0)
    (h : ¬ s.srcInBounds s.src0.toNat s.width.toNat ∨ ¬ s.srcInBounds s.src1.toNat s.width.toNat) :
    exec .accum s = .next (s.raise .bounds (encode .accum)) := by
  refine (gate_run hrun _).trans ((if_neg hw).trans ?_)
  by_cases h0 : s.srcInBounds s.src0.toNat s.width.toNat
  · exact (if_neg (not_not.mpr h0)).trans (if_pos (h.resolve_left (not_not.mpr h0)))
  · exact if_pos h0

theorem exec_accum1_run : exec .accum1 s = .next (s.raise .unimpl (encode .accum1)) := gate_run hrun _

theorem exec_accuma_run : exec .accuma s = .next (s.raise .unimpl (encode .accuma)) := gate_run hrun _

end

theorem exec_accum_fault {s : State} (h : s.status ≠ 0#4) : exec .accum s = .next s := gate_discards h _

/-- ACCUM reads neither ACC nor ACCN, so a completed ACCUM has computed what the next one computes. -/
theorem Completes.accum_again {s t : State} (hc : Completes s .accum t) : Completes t .accum t := by
  cases hc with
  | accum hw h0 h1 => exact .accum (s := s.setAcc s.accumulated) hw h0 h1

theorem Completes.accum_status {s t : State} (hc : Completes s .accum t) : t.status = s.status := by
  cases hc; rfl

/-! Two memories with the same colours. -/

/-- `m'` reads as `m` in every r, g and b lane; the alpha lanes, bytes 4a + 3, may differ (20_memory.md R43). -/
def Memory.SameColours (m m' : Memory) : Prop := ∀ a lane, lane < 3 → m'.read (4 * a + lane) = m.read (4 * a + lane)

section
variable {s : State} {m : Memory} (hm : s.src.SameColours m)
include hm

theorem srcLane_setSrc {lane : Nat} (hlane : lane < 3) (a : Nat) : srcLane (s.setSrc m) lane a = srcLane s lane a :=
  congrArg BitVec.toNat (hm a lane hlane)

theorem accLane_setSrc {lane : Nat} (hlane : lane < 3) (i : Nat) : accLane (s.setSrc m) lane i = accLane s lane i := by
  simp only [accLane, srcLane_setSrc hm hlane, State.setSrc_cfg, State.setSrc_width, State.setSrc_src0, State.setSrc_src1]

theorem accumulated_setSrc : (s.setSrc m).accumulated = s.accumulated := by
  have hentry : accEntry (s.setSrc m) = accEntry s := by
    funext i
    simp only [accEntry, accLane_setSrc hm (show 0 < 3 by decide), accLane_setSrc hm (show 1 < 3 by decide),
      accLane_setSrc hm (show 2 < 3 by decide)]
  rw [accumulated_eq_map, accumulated_eq_map, hentry, State.setSrc_width]

theorem luma_pixel_of_sameColours (a : Nat) : (m.pixel a).luma = (s.src.pixel a).luma := by
  have hr : m.read (4 * a) = s.src.read (4 * a) := hm a 0 (by decide)
  have hg := hm a 1 (by decide)
  have hb := hm a 2 (by decide)
  simp only [Pixel.luma, Memory.pixel, hr, hg, hb]

theorem lumaRow_setSrc (k : BitVec 1) : (s.setSrc m).lumaRow k = s.lumaRow k :=
  List.map_congr_left fun j _ => luma_pixel_of_sameColours hm (s.srcBase k + j)

end

/-! Commands from two states that differ in SRC alone. -/

/-- Both commands answer a next state, and the second one is the first with `m` for its SRC. -/
def SameButSrc (m : Memory) (r r' : Result) : Prop := ∃ t, r = .next t ∧ r' = .next (t.setSrc m)

section
variable {m : Memory} {s : State} {r r' q q' : Result}

theorem SameButSrc.next (t : State) : SameButSrc m (.next t) (.next (t.setSrc m)) := ⟨t, rfl, rfl⟩

theorem SameButSrc.raiseBy (c : Cause) (i : Instr) : SameButSrc m (raiseBy c i s) (raiseBy c i (s.setSrc m)) :=
  .next _

/-- A check that does not read SRC goes the same way from both states. -/
theorem SameButSrc.ite {p : Prop} [Decidable p] (h : SameButSrc m r r') (hq : SameButSrc m q q') :
    SameButSrc m (if p then r else q) (if p then r' else q') := by
  split
  · exact h
  · exact hq

theorem SameButSrc.gate (h : SameButSrc m r r') : SameButSrc m (gate s r) (gate (s.setSrc m) r') :=
  h.ite (.next s)

end

theorem setSrc_writeReg (s : State) (m : Memory) (r : RwReg) (imm : BitVec 22) :
    (s.setSrc m).writeReg r imm = (s.writeReg r imm).setSrc m := by
  cases r <;> rfl

/-- Only ACCUM and CVTY read SRC, and both read its colours alone (R118). -/
theorem exec_setSrc {s : State} {m : Memory} (hm : s.src.SameColours m) (i : Instr) :
    SameButSrc m (exec i s) (exec i (s.setSrc m)) := by
  cases i with
  | set reg imm =>
    refine .gate ?_
    split
    · exact .raiseBy _ _
    · exact .raiseBy _ _
    · rw [setSrc_writeReg]
      exact .ite (.raiseBy _ _) (.ite (.raiseBy _ _) (.next _))
  | reset => exact .next s.doReset
  | g2l => exact .gate (.ite (.raiseBy _ _) (.next _))
  | l2g k => exact .gate (.ite (.raiseBy _ _) (.next _))
  | rgb2y => exact .gate (.ite (.raiseBy _ _) (.next _))
  | rgb2u => exact .gate (.ite (.raiseBy _ _) (.next _))
  | rgb2v => exact .gate (.ite (.raiseBy _ _) (.next _))
  | accum =>
    have hsame : SameButSrc m (.next (s.setAcc s.accumulated))
        (.next ((s.setSrc m).setAcc (s.setSrc m).accumulated)) := by
      rw [accumulated_setSrc hm]; exact .next _
    exact .gate (.ite (.raiseBy _ _) (.ite (.raiseBy _ _) (.ite (.raiseBy _ _) hsame)))
  | accum1 => exact .gate (.raiseBy _ _)
  | accuma => exact .gate (.raiseBy _ _)
  | cvtuv =>
    exact .gate (.ite (.raiseBy _ _) (.ite (.raiseBy _ _) (.ite (.raiseBy _ _) (.ite (.raiseBy _ _) (.next _)))))
  | cvty k =>
    have hsame : SameButSrc m (.next (s.setDst (s.dst.writeRow (s.ydstBase k) (s.lumaRow k))))
        (.next ((s.setSrc m).setDst (s.dst.writeRow (s.ydstBase k) ((s.setSrc m).lumaRow k)))) := by
      rw [lumaRow_setSrc hm]; exact .next _
    exact .gate (.ite (.raiseBy _ _) (.ite (.raiseBy _ _) (.ite (.raiseBy _ _) hsame)))

end Sys2Proof.Machine

namespace Sys2Proof

open Sys2Proof.Machine Sys2Proof.Spec

/-- Settles O26: the faults check by check; past them ACC takes the entries of `accumulated_eq_map`. The formula of
LinearToGamma in each entry is the spec's own decision (log 10). -/
theorem accumFollowsItsRule : Obligations.AccumFollowsItsRule := by
  unfold Obligations.AccumFollowsItsRule
  refine ⟨decode_encode (i := .accum) rfl, fun s hrun => ⟨exec_accum_zeroWidth hrun, ?outOfBounds, ?completes⟩⟩
  case outOfBounds =>
    rintro ⟨hw, h⟩
    exact exec_accum_outOfBounds hrun hw (h.imp Nat.not_le.mpr Nat.not_le.mpr)
  case completes =>
    rintro ⟨hw, h0, h1⟩
    have hlen := accumulated_length s
    have hwidth := s.width.isLt
    exact ⟨s.accumulated, exec_of_completes hrun (.accum hw h0 h1), hlen, fun i hi => accumulated_getElem? hi,
      congrArg (BitVec.ofNat 14) hlen, by omega⟩

/-- Settles O27: each expanded Sample is at most max(G2L), which WF2 bounds, and LinearToGamma is at most 65532. -/
theorem accumulatorLanesAreNeverTruncated : Obligations.AccumulatorLanesAreNeverTruncated := by
  unfold Obligations.AccumulatorLanesAreNeverTruncated
  intro c hwf p q r t
  have hp := expand_le_max c p.toNat
  have hq := expand_le_max c q.toNat
  have hr := expand_le_max c r.toNat
  have ht := expand_le_max c t.toNat
  exact ⟨Config.div_lt_tabSize_of_le hwf (by omega), Config.div_lt_tabSize_of_le hwf (by omega),
    (congrArg _ (blockLane_eq_recompress c p q r t)).trans (toNat_recompress hwf _ _),
    (congrArg _ (tailLane_eq_recompress c p q)).trans (toNat_recompress hwf _ _), lane_le hwf _ _, lane_le hwf _ _⟩

/-- Settles O28: a discarded ACCUM is discarded again, a faulted one has entered the fault state, and a completed one
completes with the same entries. -/
theorem accumTwiceIsAccumOnce : Obligations.AccumTwiceIsAccumOnce := by
  unfold Obligations.AccumTwiceIsAccumOnce
  intro s t h
  cases exec_cases h with
  | discarded hfault _ ht => exact ht ▸ exec_accum_fault hfault
  | reset hi _ => cases hi
  | raised _ c ht => exact ht ▸ exec_accum_fault (raise_not_running s c _)
  | completed hrun hc => exact exec_of_completes (hc.accum_status.trans hrun) hc.accum_again

/-- Settles O30 by `exec_setSrc`: a check or value that reads SRC reads its colours alone. -/
theorem alphaLaneIsNeverRead : Obligations.AlphaLaneIsNeverRead := by
  unfold Obligations.AlphaLaneIsNeverRead
  exact fun i s src' hm => exec_setSrc hm i

/-- Settles O29: behind the gate both commands do nothing but raise E_UNIMPL. -/
theorem accum1AndAccumaRaiseUnimpl : Obligations.Accum1AndAccumaRaiseUnimpl := by
  unfold Obligations.Accum1AndAccumaRaiseUnimpl
  refine ⟨decode_encode (i := .accum1) rfl, decode_encode (i := .accuma) rfl,
    fun s => ⟨fun hrun => ?run, fun hfault => ?fault⟩⟩
  case run => exact ⟨exec_accum1_run hrun, exec_accuma_run hrun⟩
  case fault => exact ⟨gate_discards hfault _, gate_discards hfault _⟩

end Sys2Proof
end

section
/-! The colour matrix of 43_convert.md: its three functions as the statements write them and in 32-bit words (R120 to
R124), their ranges (R125, R126), and the scalar commands RGB2Y, RGB2U, RGB2V (R127 to R129). -/

namespace Sys2Proof.Machine

open Sys2Proof.Spec

/-! The model's functions are the ones the statements write. -/

theorem clip8_eq_saturate (v : Int) : clip8 v = saturate v := by
  unfold clip8 saturate
  split
  · omega
  · split <;> omega

theorem rgbToY_eq_lumaOf (r g b rnd : Nat) : rgbToY r g b rnd = lumaOf r g b rnd := rgbToY_eq r g b rnd

theorem rgbToU_eq_uOf (r g b rnd : Nat) : rgbToU r g b rnd = uOf r g b rnd :=
  (rgbToU_eq r g b rnd).trans (clip8_eq_saturate _)

theorem rgbToV_eq_vOf (r g b rnd : Nat) : rgbToV r g b rnd = vOf r g b rnd :=
  (rgbToV_eq r g b rnd).trans (clip8_eq_saturate _)

/-! Ranges. -/

theorem natCast_saturate {v : Int} (h0 : 0 ≤ v) (h255 : v ≤ 255) : (saturate v : Int) = v := by
  unfold saturate
  omega

theorem uRaw_range {r g b : Nat} (hr : r ≤ 1020) (hg : g ≤ 1020) (hb : b ≤ 1020) :
    16 ≤ uRaw r g b 131072 ∧ uRaw r g b 131072 ≤ 240 := by
  unfold uRaw
  omega

theorem vRaw_range {r g b : Nat} (hr : r ≤ 1020) (hg : g ≤ 1020) (hb : b ≤ 1020) :
    16 ≤ vRaw r g b 131072 ∧ vRaw r g b 131072 ≤ 240 := by
  unfold vRaw
  omega

/-- The coefficients of U add up to 0, so grey leaves the constant 128 alone; a bias below 2^18 does not reach 129. -/
theorem uOf_grey (x : Nat) {rnd : Nat} (hrnd : rnd < 2 ^ 18) : uOf x x x rnd = 128 := by
  have hraw : uRaw x x x rnd = 128 := by unfold uRaw; omega
  rw [uOf, hraw]
  rfl

/-- The coefficients of V add up to 0 as well. -/
theorem vOf_grey (x : Nat) {rnd : Nat} (hrnd : rnd < 2 ^ 18) : vOf x x x rnd = 128 := by
  have hraw : vRaw x x x rnd = 128 := by unfold vRaw; omega
  rw [vOf, hraw]
  rfl

theorem lumaOf_rowBias_range {r g b : Nat} (hr : r ≤ 255) (hg : g ≤ 255) (hb : b ≤ 255) :
    16 ≤ lumaOf r g b 32768 ∧ lumaOf r g b 32768 ≤ 235 := by
  unfold lumaOf
  omega

/-! The sums in 32-bit two's-complement words: each is the integer sum, since that one fits (R124). -/

theorem ofInt_sub (w : Nat) (x y : Int) : BitVec.ofInt w (x - y) = BitVec.ofInt w x - BitVec.ofInt w y := by
  rw [Int.sub_eq_add_neg, BitVec.ofInt_add, BitVec.ofInt_neg, BitVec.sub_eq_add_neg]

theorem toInt_luma32 {r g b rnd : Nat} (hr : r ≤ 255) (hg : g ≤ 255) (hb : b ≤ 255) (hrnd : rnd < 2 ^ 18) :
    (luma32 r g b rnd).toInt = 16839 * r + 33059 * g + 6420 * b + rnd + 1048576 := by
  have hword : luma32 r g b rnd = BitVec.ofInt 32 (16839 * r + 33059 * g + 6420 * b + rnd + 1048576) := by
    simp only [luma32, BitVec.ofInt_add, BitVec.ofInt_mul, BitVec.ofInt_natCast, BitVec.ofInt_ofNat]
  rw [hword, BitVec.toInt_ofInt_eq_self (by decide)] <;> omega

theorem toInt_u32 {r g b rnd : Nat} (hr : r ≤ 65535) (hg : g ≤ 65535) (hb : b ≤ 65535) (hrnd : rnd < 2 ^ 18) :
    (u32 r g b rnd).toInt = 28800 * b - 9719 * r - 19081 * g + rnd + 33554432 := by
  have hword : u32 r g b rnd = BitVec.ofInt 32 (28800 * b - 9719 * r - 19081 * g + rnd + 33554432) := by
    simp only [u32, BitVec.ofInt_add, ofInt_sub, BitVec.ofInt_mul, BitVec.ofInt_natCast, BitVec.ofInt_ofNat]
  rw [hword, BitVec.toInt_ofInt_eq_self (by decide)] <;> omega

theorem toInt_v32 {r g b rnd : Nat} (hr : r ≤ 65535) (hg : g ≤ 65535) (hb : b ≤ 65535) (hrnd : rnd < 2 ^ 18) :
    (v32 r g b rnd).toInt = 28800 * r - 24116 * g - 4684 * b + rnd + 33554432 := by
  have hword : v32 r g b rnd = BitVec.ofInt 32 (28800 * r - 24116 * g - 4684 * b + rnd + 33554432) := by
    simp only [v32, BitVec.ofInt_add, ofInt_sub, BitVec.ofInt_mul, BitVec.ofInt_natCast, BitVec.ofInt_ofNat]
  rw [hword, BitVec.toInt_ofInt_eq_self (by decide)] <;> omega

/-- The arithmetic right shift divides and rounds down. -/
theorem toInt_sshiftRight_eq_div {w : Nat} (x : BitVec w) (n : Nat) : (x.sshiftRight n).toInt = x.toInt / 2 ^ n := by
  rw [BitVec.toInt_sshiftRight, Int.shiftRight_eq_div_pow]
  norm_cast

/-! The scalar commands in the run state. -/

section
variable {s : State} (hrun : s.status = 0#4)
include hrun

theorem exec_rgb2y_outOfDomain (h : ¬ s.scalarsAtMost 255) :
    exec .rgb2y s = .next (s.raise .operand (encode .rgb2y)) :=
  (gate_run hrun _).trans (if_pos h)

theorem exec_rgb2u_outOfDomain (h : ¬ s.scalarsAtMost 65535) :
    exec .rgb2u s = .next (s.raise .operand (encode .rgb2u)) :=
  (gate_run hrun _).trans (if_pos h)

theorem exec_rgb2v_outOfDomain (h : ¬ s.scalarsAtMost 65535) :
    exec .rgb2v s = .next (s.raise .operand (encode .rgb2v)) :=
  (gate_run hrun _).trans (if_pos h)

end

theorem not_scalarsAtMost {s : State} {bound : Nat}
    (h : bound < s.a0.toNat ∨ bound < s.a1.toNat ∨ bound < s.a2.toNat) : ¬ s.scalarsAtMost bound := by
  unfold State.scalarsAtMost
  omega

end Sys2Proof.Machine

namespace Sys2Proof

open Sys2Proof.Machine Sys2Proof.Spec

/-- Settles O20: Samples and an 18-bit bias keep the luma below 256, so RES holds it unclipped. -/
theorem rgb2yFollowsItsRule : Obligations.Rgb2yFollowsItsRule := by
  unfold Obligations.Rgb2yFollowsItsRule
  refine ⟨decode_encode (i := .rgb2y) rfl, fun s hrun =>
    ⟨fun h => exec_rgb2y_outOfDomain hrun (not_scalarsAtMost h), fun h => ?completes⟩⟩
  case completes =>
    obtain ⟨hr, hg, hb⟩ := h
    exact ⟨_, (toNat_res_of_le ((rgbToY_le hr hg hb s.rnd.isLt).trans (by decide))).trans (rgbToY_eq_lumaOf ..),
      exec_of_completes hrun (.rgb2y ⟨hr, hg, hb⟩)⟩

/-- Settles O21: the clipped value is a Sample, so RES holds it. -/
theorem rgb2uFollowsItsRule : Obligations.Rgb2uFollowsItsRule := by
  unfold Obligations.Rgb2uFollowsItsRule
  refine ⟨decode_encode (i := .rgb2u) rfl, fun s hrun =>
    ⟨fun h => exec_rgb2u_outOfDomain hrun (not_scalarsAtMost h), fun h => ?completes⟩⟩
  case completes =>
    exact ⟨_, (toNat_res_of_le ((rgbToU_le ..).trans (by decide))).trans (rgbToU_eq_uOf ..),
      exec_of_completes hrun (.rgb2u h)⟩

/-- Settles O22: the clipped value is a Sample, so RES holds it. -/
theorem rgb2vFollowsItsRule : Obligations.Rgb2vFollowsItsRule := by
  unfold Obligations.Rgb2vFollowsItsRule
  refine ⟨decode_encode (i := .rgb2v) rfl, fun s hrun =>
    ⟨fun h => exec_rgb2v_outOfDomain hrun (not_scalarsAtMost h), fun h => ?completes⟩⟩
  case completes =>
    exact ⟨_, (toNat_res_of_le ((rgbToV_le ..).trans (by decide))).trans (rgbToV_eq_vOf ..),
      exec_of_completes hrun (.rgb2v h)⟩

/-- Settles O23: the coefficients are positive, so the sum lies between those of black and white. -/
theorem lumaStaysInRange : Obligations.LumaStaysInRange := by
  unfold Obligations.LumaStaysInRange
  simp only [rgbToY_eq_lumaOf]
  refine ⟨fun r g b rnd hr hg hb hrnd => ?anyBias, fun r g b hr hg hb => lumaOf_rowBias_range hr hg hb, by decide,
    by decide⟩
  case anyBias =>
    unfold lumaOf
    omega

/-- Settles O24: between 0 and 255 the saturation leaves the raw value alone. -/
theorem chromaRangeAndGrey : Obligations.ChromaRangeAndGrey := by
  unfold Obligations.ChromaRangeAndGrey
  refine ⟨fun r g b hr hg hb => ?unclipped, fun r g b rnd => ⟨rgbToU_le .., rgbToV_le ..⟩, fun x rnd hrnd => ?grey,
    by decide, by decide, by decide, by decide, by decide, by decide⟩
  case unclipped =>
    obtain ⟨hu16, hu240⟩ := uRaw_range hr hg hb
    obtain ⟨hv16, hv240⟩ := vRaw_range hr hg hb
    have hu : (rgbToU r g b 131072 : Int) = uRaw r g b 131072 := by
      rw [rgbToU_eq_uOf, uOf, natCast_saturate (by omega) (by omega)]
    have hv : (rgbToV r g b 131072 : Int) = vRaw r g b 131072 := by
      rw [rgbToV_eq_vOf, vOf, natCast_saturate (by omega) (by omega)]
    omega
  case grey => exact ⟨(rgbToU_eq_uOf ..).trans (uOf_grey x hrnd), (rgbToV_eq_vOf ..).trans (vOf_grey x hrnd)⟩

/-- Settles O25: each 32-bit sum is the integer sum, and the arithmetic shift is its floor division. -/
theorem matrixSumsFitThirtyTwoBits : Obligations.MatrixSumsFitThirtyTwoBits := by
  unfold Obligations.MatrixSumsFitThirtyTwoBits
  refine ⟨fun r g b rnd hr hg hb hrnd => ?luma, fun r g b rnd hr hg hb hrnd => ?chroma⟩
  case luma =>
    rw [toInt_sshiftRight_eq_div, toInt_luma32 hr hg hb hrnd, rgbToY_eq]
    omega
  case chroma =>
    rw [toInt_sshiftRight_eq_div, toInt_sshiftRight_eq_div, toInt_u32 hr hg hb hrnd, toInt_v32 hr hg hb hrnd,
      rgbToU_eq_uOf, rgbToV_eq_vOf]
    refine ⟨congrArg saturate ?u, congrArg saturate ?v, ?range⟩
    case u => unfold uRaw; omega
    case v => unfold vRaw; omega
    case range => omega

end Sys2Proof
end

section
/-! The row conversions of 43_convert.md: what CVTUV and CVTY leave in DST and when they fault (R131, R132, R135), CVTY
and ACCUM in either order, the chroma box filter (R136), and CVTPAIR end to end (R137, 30_encoding.md R72). -/

namespace Sys2Proof.Machine

open Sys2Proof.Spec

/-! Ranges of addresses. -/

/-- The block tests sharing an element, the statements write sharing none. -/
theorem not_rangesOverlap_iff {u v n : Nat} : ¬ rangesOverlap u v n ↔ apart u n v n := by
  unfold rangesOverlap apart
  omega

theorem apart_symm {x n y k : Nat} (h : apart x n y k) : apart y k x n := Or.symm h

theorem not_inRange_of_apart {x n y k i : Nat} (h : apart x n y k) (hi : i < n) : ¬ inRange y k (x + i) := by
  unfold apart at h
  unfold inRange
  omega

/-! A row of Samples and the two chroma rows, read inside and outside their ranges. -/

namespace Memory

variable {m : Memory} (hm : m.wf = true)
include hm

theorem read_writeRow_at (base : Nat) {vs : List Sample} {j : Nat} {v : Sample} (h : vs[j]? = some v) :
    (m.writeRow base vs).read (base + j) = v := by
  rw [read_writeRow hm, if_pos (Nat.le_add_right base j), Nat.add_sub_cancel_left, List.getD_eq_getElem?_getD, h]
  rfl

theorem read_writeRow_outside {base : Nat} {vs : List Sample} {a : Nat} (h : ¬ inRange base vs.length a) :
    (m.writeRow base vs).read a = m.read a := by
  unfold inRange at h
  rw [read_writeRow hm]
  split
  · exact List.getD_eq_default _ _ (by omega)
  · rfl

section
variable {u v : Nat} {es : List AccEntry} (hapart : apart u es.length v es.length)
include hapart

theorem read_writeChroma_u {i : Nat} {e : AccEntry} (h : es[i]? = some e) :
    (m.writeChroma u v es).read (u + i) = e.u := by
  obtain ⟨hi, -⟩ := List.getElem?_eq_some_iff.mp h
  have hrow : (es.map AccEntry.u)[i]? = some e.u := by rw [List.getElem?_map, h]; rfl
  have hout : ¬ inRange v (es.map AccEntry.v).length (u + i) := by
    rw [List.length_map]; exact not_inRange_of_apart hapart hi
  rw [read_writeChroma hm hapart, read_writeRow_outside (wf_writeRow hm _ _) hout, read_writeRow_at hm u hrow]

theorem read_writeChroma_v {i : Nat} {e : AccEntry} (h : es[i]? = some e) :
    (m.writeChroma u v es).read (v + i) = e.v := by
  have hrow : (es.map AccEntry.v)[i]? = some e.v := by rw [List.getElem?_map, h]; rfl
  rw [read_writeChroma hm hapart, read_writeRow_at (wf_writeRow hm _ _) v hrow]

theorem read_writeChroma_outside {a : Nat} (hu : ¬ inRange u es.length a) (hv : ¬ inRange v es.length a) :
    (m.writeChroma u v es).read a = m.read a := by
  rw [← List.length_map AccEntry.u] at hu
  rw [← List.length_map AccEntry.v] at hv
  rw [read_writeChroma hm hapart, read_writeRow_outside (wf_writeRow hm _ _) hv, read_writeRow_outside hm hu]

end

end Memory

/-! The Samples written. -/

/-- A clipped chroma value fits its 8 bits. -/
theorem AccEntry.toNat_u (e : AccEntry) : e.u.toNat = uOf e.r.toNat e.g.toNat e.b.toNat 131072 := by
  have hle := rgbToU_le e.r.toNat e.g.toNat e.b.toNat roundUvRow
  rw [AccEntry.u, BitVec.toNat_ofNat, Nat.mod_eq_of_lt (by omega)]
  exact rgbToU_eq_uOf ..

theorem AccEntry.toNat_v (e : AccEntry) : e.v.toNat = vOf e.r.toNat e.g.toNat e.b.toNat 131072 := by
  have hle := rgbToV_le e.r.toNat e.g.toNat e.b.toNat roundUvRow
  rw [AccEntry.v, BitVec.toNat_ofNat, Nat.mod_eq_of_lt (by omega)]
  exact rgbToV_eq_vOf ..

theorem srcLane_le (s : State) (lane a : Nat) : srcLane s lane a ≤ 255 := Nat.le_of_lt_succ (BitVec.isLt _)

/-- The luma of a pixel fits its 8 bits without a clamp (R125). -/
theorem toNat_luma_pixel (s : State) (a : Nat) : (s.src.pixel a).luma.toNat = rowLuma s a := by
  have hle := rgbToY_le (srcLane_le s 0 a) (srcLane_le s 1 a) (srcLane_le s 2 a) (show roundYRow < 2 ^ 18 by decide)
  refine (BitVec.toNat_ofNat _ _).trans ((Nat.mod_eq_of_lt (Nat.lt_succ_of_le hle)).trans ?_)
  exact rgbToY_eq_lumaOf ..

theorem rowLuma_range (s : State) (a : Nat) : 16 ≤ rowLuma s a ∧ rowLuma s a ≤ 235 :=
  lumaOf_rowBias_range (srcLane_le s 0 a) (srcLane_le s 1 a) (srcLane_le s 2 a)

theorem lumaRow_getElem? {s : State} {k : BitVec 1} {j : Nat} (hj : j < s.width.toNat) :
    (s.lumaRow k)[j]? = some (s.src.pixel (s.srcBase k + j)).luma := by
  rw [State.lumaRow, List.getElem?_map, List.getElem?_range hj]
  rfl

/-! What a completed CVTUV and a completed CVTY leave in DST. -/

section
variable {s t : State} (hc : Completes s .cvtuv t) (hm : s.dst.wf = true)
include hc hm

theorem Completes.cvtuv_wf_dst : t.dst.wf = true := by
  cases hc with
  | cvtuv => exact Memory.wf_writeChroma hm _ _ _

theorem Completes.cvtuv_read_chroma {i : Nat} {e : AccEntry} (h : s.acc[i]? = some e) :
    t.dst.read (s.udst.toNat + i) = e.u ∧ t.dst.read (s.vdst.toNat + i) = e.v := by
  cases hc with
  | cvtuv _ _ _ ho =>
    have hapart := not_rangesOverlap_iff.mp ho
    exact ⟨Memory.read_writeChroma_u hm hapart h, Memory.read_writeChroma_v hm hapart h⟩

theorem Completes.cvtuv_read_outside {a : Nat} (hu : ¬ inRange s.udst.toNat s.acc.length a)
    (hv : ¬ inRange s.vdst.toNat s.acc.length a) : t.dst.read a = s.dst.read a := by
  cases hc with
  | cvtuv _ _ _ ho => exact Memory.read_writeChroma_outside hm (not_rangesOverlap_iff.mp ho) hu hv

end

section
variable {s t : State} {k : BitVec 1} (hc : Completes s (.cvty k) t) (hm : s.dst.wf = true)
include hc hm

theorem Completes.cvty_wf_dst : t.dst.wf = true := by
  cases hc with
  | cvty => exact Memory.wf_writeRow hm _ _

theorem Completes.cvty_read_luma {j : Nat} (hj : j < s.width.toNat) :
    (t.dst.read (s.ydstBase k + j)).toNat = rowLuma s (s.srcBase k + j) := by
  cases hc with
  | cvty =>
    exact (congrArg BitVec.toNat (Memory.read_writeRow_at hm _ (lumaRow_getElem? hj))).trans (toNat_luma_pixel ..)

theorem Completes.cvty_read_outside {a : Nat} (h : ¬ inRange (s.ydstBase k) s.width.toNat a) :
    t.dst.read a = s.dst.read a := by
  cases hc with
  | cvty =>
    rw [← length_lumaRow s k] at h
    exact Memory.read_writeRow_outside hm h

end

/-! The faults of CVTUV and CVTY. -/

section
variable {s : State} (hrun : s.status = 0#4)
include hrun

theorem exec_cvtuv_noEntries (h : s.acc.length = 0) : exec .cvtuv s = .next (s.raise .accEmpty (encode .cvtuv)) :=
  (gate_run hrun _).trans (if_pos h)

/-- Both bounds checks raise the same fault, so which of them fails does not show. -/
theorem exec_cvtuv_outOfBounds (hn : s.acc.length ≠ 0)
    (h : ¬ s.dstInBounds s.udst.toNat s.acc.length ∨ ¬ s.dstInBounds s.vdst.toNat s.acc.length) :
    exec .cvtuv s = .next (s.raise .bounds (encode .cvtuv)) := by
  refine (gate_run hrun _).trans ((if_neg hn).trans ?_)
  by_cases hu : s.dstInBounds s.udst.toNat s.acc.length
  · exact (if_neg (not_not.mpr hu)).trans (if_pos (h.resolve_left (not_not.mpr hu)))
  · exact if_pos hu

theorem exec_cvtuv_overlap (hn : s.acc.length ≠ 0) (hu : s.dstInBounds s.udst.toNat s.acc.length)
    (hv : s.dstInBounds s.vdst.toNat s.acc.length) (h : rangesOverlap s.udst.toNat s.vdst.toNat s.acc.length) :
    exec .cvtuv s = .next (s.raise .overlap (encode .cvtuv)) :=
  (gate_run hrun _).trans ((if_neg hn).trans ((if_neg (not_not.mpr hu)).trans
    ((if_neg (not_not.mpr hv)).trans (if_pos h))))

theorem exec_cvty_zeroWidth {k : BitVec 1} (h : s.width.toNat = 0) :
    exec (.cvty k) s = .next (s.raise .width (encode (.cvty k))) :=
  (gate_run hrun _).trans (if_pos h)

theorem exec_cvty_outOfBounds {k : BitVec 1} (hw : s.width.toNat ≠ 0)
    (h : ¬ s.srcInBounds (s.srcBase k) s.width.toNat ∨ ¬ s.dstInBounds (s.ydstBase k) s.width.toNat) :
    exec (.cvty k) s = .next (s.raise .bounds (encode (.cvty k))) := by
  refine (gate_run hrun _).trans ((if_neg hw).trans ?_)
  by_cases hs : s.srcInBounds (s.srcBase k) s.width.toNat
  · exact (if_neg (not_not.mpr hs)).trans (if_pos (h.resolve_left (not_not.mpr hs)))
  · exact if_pos hs

end

/-- The two words of CVTY (30_encoding.md R63). -/
theorem encode_cvty (k : BitVec 1) : encode (.cvty k) = BitVec.ofNat 32 (0x54000000 + k.toNat) := by
  revert k; decide

/-- A row's bases are SRC0 and YDST0 or SRC1 and YDST1 (R135). -/
theorem row_bases {s : State} {k : BitVec 1} {sb db : Nat}
    (h : k = 0#1 ∧ sb = s.src0.toNat ∧ db = s.ydst0.toNat ∨ k = 1#1 ∧ sb = s.src1.toNat ∧ db = s.ydst1.toNat) :
    sb = s.srcBase k ∧ db = s.ydstBase k := by
  rcases h with ⟨rfl, hsb, hdb⟩ | ⟨rfl, hsb, hdb⟩
  · exact ⟨hsb, hdb⟩
  · exact ⟨hsb, hdb⟩

/-! CVTY and ACCUM do not touch what the other one reads. -/

/-- A command other than RESET that ends in the run state has completed (60_exceptions.md R165, R166). -/
theorem completes_of_exec_good {i : Instr} {s t : State} (hi : i ≠ .reset) (h : exec i s = .next t)
    (hgood : t.status = 0#4) : s.status = 0#4 ∧ Completes s i t := by
  cases exec_cases h with
  | discarded hfault _ ht => exact absurd (ht ▸ hgood) hfault
  | reset hreset _ => exact absurd hreset hi
  | raised _ c ht => exact absurd (ht ▸ hgood) (raise_not_running s c _)
  | completed hrun hc => exact ⟨hrun, hc⟩

theorem Completes.keeps_status {i : Instr} {s t : State} (hc : Completes s i t) : t.status = s.status := by
  rcases hc.update_cases with ⟨_, _, _, _, rfl⟩ | ⟨_, _, rfl⟩ | ⟨_, rfl⟩ | ⟨_, _, rfl⟩
  · exact State.writeReg_keeps_status ..
  · rfl
  · rfl
  · rfl

/-- CVTY writes DST alone, which ACCUM does not read, and ACCUM writes ACC alone, which CVTY does not read. -/
theorem Completes.accum_cvty_swap {k : BitVec 1} {s t u : State} (ha : Completes s .accum t)
    (hy : Completes t (.cvty k) u) : ∃ t', Completes s (.cvty k) t' ∧ Completes t' .accum u := by
  cases ha with
  | accum hw h0 h1 =>
    cases hy with
    | cvty _ hs hd =>
      exact ⟨_, .cvty (s := s) hw hs hd,
        .accum (s := s.setDst (s.dst.writeRow (s.ydstBase k) (s.lumaRow k))) hw h0 h1⟩

/-- CVTY's checks do not read DST. -/
theorem exists_completes_cvty {s : State} {k : BitVec 1} (m : Memory) (hw : s.width.toNat ≠ 0)
    (hs : s.srcInBounds (s.srcBase k) s.width.toNat) (hd : s.dstInBounds (s.ydstBase k) s.width.toNat) :
    ∃ m', Completes (s.setDst m) (.cvty k) (s.setDst m') := ⟨_, .cvty (s := s.setDst m) hw hs hd⟩

/-! The chroma of a 2×2 block or a tail column, from ACCUM through CVTUV. -/

theorem toNat_accLane {s : State} (hwf : s.cfg.wf = true) (lane i : Nat) :
    (BitVec.ofNat 16 (accLane s lane i)).toNat = accLane s lane i := by
  unfold accLane
  split
  · exact toNat_recompress hwf _ _
  · exact toNat_recompress hwf _ _

theorem toNat_u_accEntry {s : State} (hwf : s.cfg.wf = true) (i : Nat) :
    (accEntry s i).u.toNat = uOf (accLane s 0 i) (accLane s 1 i) (accLane s 2 i) 131072 := by
  simp only [AccEntry.toNat_u, accEntry, toNat_accLane hwf]

theorem toNat_v_accEntry {s : State} (hwf : s.cfg.wf = true) (i : Nat) :
    (accEntry s i).v.toNat = vOf (accLane s 0 i) (accLane s 1 i) (accLane s 2 i) 131072 := by
  simp only [AccEntry.toNat_v, accEntry, toNat_accLane hwf]

/-- Four expanded Samples with shift 0 and two with shift 1 are the same sum when all are equal (R99). -/
theorem accLane_uniform {s : State} {lane i v : Nat} (hi : i < (s.width.toNat + 1) / 2)
    (h : ∀ base, base = s.src0.toNat ∨ base = s.src1.toNat → ∀ j, j < s.width.toNat → j / 2 = i →
      srcLane s lane (base + j) = v) : accLane s lane i = uniformEntry s.cfg v := by
  have h0 := h _ (.inl rfl)
  have h1 := h _ (.inr rfl)
  simp only [accLane]
  split
  case isTrue hpair =>
    rw [h0 (2 * i) (by omega) (by omega), h0 (2 * i + 1) hpair (by omega), h1 (2 * i) (by omega) (by omega),
      h1 (2 * i + 1) hpair (by omega)]
    exact recompress_congr s.cfg (by ring)
  case isFalse =>
    rw [h0 (2 * i) (by omega) (by omega), h1 (2 * i) (by omega) (by omega)]
    exact recompress_congr s.cfg (by ring)

/-- After ACCUM the file holds ⌈WIDTH/2⌉ entries, so CVTUV's checks are about that many elements. -/
theorem completes_cvtuv_after_accum {s : State} {n : Nat} (hn : n = (s.width.toNat + 1) / 2) (hw : s.width.toNat ≠ 0)
    (hu : s.udst.toNat + n ≤ s.cfg.dstSize) (hv : s.vdst.toNat + n ≤ s.cfg.dstSize)
    (hapart : apart s.udst.toNat n s.vdst.toNat n) :
    ∃ m, Completes (s.setAcc s.accumulated) .cvtuv ((s.setAcc s.accumulated).setDst m) := by
  have hlen : (s.setAcc s.accumulated).acc.length = n := (accumulated_length s).trans hn.symm
  have hentries : n ≠ 0 := by omega
  have hdisjoint := not_rangesOverlap_iff.mpr hapart
  rw [← hlen] at hentries hu hv hdisjoint
  exact ⟨_, .cvtuv hentries hu hv hdisjoint⟩

theorem Completes.cvtuv_read_chroma_after_accum {s t : State} (hwf : s.cfg.wf = true) (hm : s.dst.wf = true)
    (hc : Completes (s.setAcc s.accumulated) .cvtuv t) {i : Nat} (hi : i < (s.width.toNat + 1) / 2) :
    (t.dst.read (s.udst.toNat + i)).toNat = uOf (accLane s 0 i) (accLane s 1 i) (accLane s 2 i) 131072 ∧
      (t.dst.read (s.vdst.toNat + i)).toNat = vOf (accLane s 0 i) (accLane s 1 i) (accLane s 2 i) 131072 := by
  obtain ⟨hu, hv⟩ := hc.cvtuv_read_chroma hm (accumulated_getElem? hi)
  exact ⟨(congrArg BitVec.toNat hu).trans (toNat_u_accEntry hwf i),
    (congrArg BitVec.toNat hv).trans (toNat_v_accEntry hwf i)⟩

/-! A run of command words that complete (60_exceptions.md R176). -/

theorem withPort_writeReg (s : State) (l : List HostAction) (r : RwReg) (imm : BitVec 22) :
    (s.withPort l).writeReg r imm = (s.writeReg r imm).withPort l := by
  cases r <;> rfl

/-- No command reads or writes the port. -/
theorem Completes.withPort {i : Instr} {s t : State} (hc : Completes s i t) (l : List HostAction) :
    Completes (s.withPort l) i (t.withPort l) := by
  cases hc with
  | set hr hw hn => rw [← withPort_writeReg]; exact .set hr hw hn
  | g2l h => exact .g2l (s := s.withPort l) h
  | l2g h => exact .l2g (s := s.withPort l) h
  | rgb2y h => exact .rgb2y (s := s.withPort l) h
  | rgb2u h => exact .rgb2u (s := s.withPort l) h
  | rgb2v h => exact .rgb2v (s := s.withPort l) h
  | accum hw h0 h1 => exact .accum (s := s.withPort l) hw h0 h1
  | cvtuv hn hu hv ho => exact .cvtuv (s := s.withPort l) hn hu hv ho
  | cvty hw hs hd => exact .cvty (s := s.withPort l) hw hs hd

theorem runWords_nil (s : State) : runWords [] s = .next (s.withPort []) := rfl

theorem runWords_cons {w : Word} {ws : List Word} {s t : State}
    (h : step (s.withPort (.command w :: ws.map .command)) = .next (t.withPort (ws.map .command))) :
    runWords (w :: ws) s = runWords ws t := by
  simp only [runWords, List.length_cons, List.map_cons, Host.Core.run, core, h]

/-- The first word of a run whose command completes. -/
theorem runWords_of_completes {i : Instr} {s t : State} {w : Word} {ws : List Word} (hwf : s.cfg.wf = true)
    (hrun : s.status = 0#4) (hw : decode w = .ok i) (hc : Completes s i t) : runWords (w :: ws) s = runWords ws t :=
  runWords_cons ((step_of_decoded_command (s := s.withPort (.command w :: ws.map .command)) hwf rfl hw).trans
    (exec_of_completes (s := s.withPort (ws.map .command)) hrun (hc.withPort _)))

end Sys2Proof.Machine

namespace Sys2Proof

open Sys2Proof.Machine Sys2Proof.Spec

/-- Settles O32: the faults check by check; past them the two rows are apart, so no write undoes another. -/
theorem cvtuvFollowsItsRule : Obligations.CvtuvFollowsItsRule := by
  unfold Obligations.CvtuvFollowsItsRule
  refine ⟨decode_encode (i := .cvtuv) rfl, ?_⟩
  rintro s hrun hm n rfl
  refine ⟨exec_cvtuv_noEntries hrun, ?outOfBounds, ?overlap, ?completes⟩
  case outOfBounds =>
    rintro ⟨hn, h⟩
    exact exec_cvtuv_outOfBounds hrun hn (h.imp Nat.not_le.mpr Nat.not_le.mpr)
  case overlap =>
    rintro ⟨hn, hu, hv, hshare⟩
    exact exec_cvtuv_overlap hrun hn hu hv (not_not.mp (mt not_rangesOverlap_iff.mp hshare))
  case completes =>
    rintro ⟨hn, hu, hv, hapart⟩
    have hc := Completes.cvtuv hn hu hv (not_rangesOverlap_iff.mpr hapart)
    refine ⟨_, exec_of_completes hrun hc, hc.cvtuv_wf_dst hm, fun i e he => ?_, fun a => hc.cvtuv_read_outside hm⟩
    obtain ⟨hreadU, hreadV⟩ := hc.cvtuv_read_chroma hm he
    exact ⟨(congrArg _ hreadU).trans e.toNat_u, (congrArg _ hreadV).trans e.toNat_v⟩

/-- Settles O33: the faults check by check; past them the row holds the luma of its pixels. The row bias 32768 is the
spec's own decision (log 11). -/
theorem cvtyFollowsItsRule : Obligations.CvtyFollowsItsRule := by
  unfold Obligations.CvtyFollowsItsRule
  refine ⟨decode_encode (i := .cvty 0#1) rfl, decode_encode (i := .cvty 1#1) rfl, fun s k sb db hrun hm hbases => ?_⟩
  obtain ⟨rfl, rfl⟩ := row_bases hbases
  rw [← encode_cvty]
  refine ⟨exec_cvty_zeroWidth hrun, ?outOfBounds, ?completes⟩
  case outOfBounds =>
    rintro ⟨hw, h⟩
    exact exec_cvty_outOfBounds hrun hw (h.imp Nat.not_le.mpr Nat.not_le.mpr)
  case completes =>
    rintro ⟨hw, hs, hd⟩
    have hc := Completes.cvty (k := k) hw hs hd
    exact ⟨_, exec_of_completes hrun hc, hc.cvty_wf_dst hm, fun j hj => ⟨hc.cvty_read_luma hm hj, rowLuma_range s _⟩,
      fun a => hc.cvty_read_outside hm⟩

/-- Settles O35: both commands have completed, and they swap. -/
theorem cvtyCommutesWithAccum : Obligations.CvtyCommutesWithAccum := by
  unfold Obligations.CvtyCommutesWithAccum
  intro k s t u haccum ht hcvty hu
  obtain ⟨hrun, ha⟩ := completes_of_exec_good (by decide) haccum ht
  obtain ⟨-, hy⟩ := completes_of_exec_good (by simp) hcvty hu
  obtain ⟨t', hy', ha'⟩ := ha.accum_cvty_swap hy
  exact ⟨t', exec_of_completes hrun hy', exec_of_completes (hy'.keeps_status.trans hrun) ha'⟩

/-- Settles O36: the entry of a block or tail of one colour is e of that colour in each lane, and CVTUV converts that
entry. The formula behind e is the spec's own decision (log 10). -/
theorem uniformMacroPixelBoxFilter : Obligations.UniformMacroPixelBoxFilter := by
  unfold Obligations.UniformMacroPixelBoxFilter
  intro s i n r g b hwf hm hrun hn hi hcolour h0 h1 hu hv hapart
  have hw : s.width.toNat ≠ 0 := by omega
  obtain ⟨m, hc⟩ := completes_cvtuv_after_accum hn hw hu hv hapart
  rw [hn] at hi
  have hr := accLane_uniform hi fun base hbase j hj hji => have ⟨hr, _, _⟩ := hcolour base hbase j hj hji; hr
  have hg := accLane_uniform hi fun base hbase j hj hji => have ⟨_, hg, _⟩ := hcolour base hbase j hj hji; hg
  have hb := accLane_uniform hi fun base hbase j hj hji => have ⟨_, _, hb⟩ := hcolour base hbase j hj hji; hb
  obtain ⟨hU, hV⟩ := hc.cvtuv_read_chroma_after_accum hwf hm hi
  rw [hr, hg, hb] at hU hV
  refine ⟨_, _, exec_of_completes hrun (.accum hw h0 h1), exec_of_completes hrun hc, hU, hV, ?grey, ?boxExact⟩
  case grey =>
    rintro ⟨rfl, rfl⟩
    exact ⟨BitVec.eq_of_toNat_eq (hU.trans (uOf_grey _ (by decide))),
      BitVec.eq_of_toNat_eq (hV.trans (vOf_grey _ (by decide)))⟩
  case boxExact =>
    intro hbox
    rw [hbox, hbox, hbox] at hU hV
    exact ⟨hU, hV⟩

/-- Settles O37: the four commands complete one after the other, and a later one leaves the ranges of the earlier ones
alone. The chroma rests on LinearToGamma's formula (log 10), the luma on the row bias (log 11). -/
theorem cvtPairConvertsTheRowPair : Obligations.CvtPairConvertsTheRowPair := by
  unfold Obligations.CvtPairConvertsTheRowPair
  rintro s w n hwf hm hrun rfl hw hn hs0 hs1 hd0 hd1 hdu hdv h01 h0u h0v h1u h1v huv
  have haccum := Completes.accum hw hs0 hs1
  obtain ⟨mUV, huvRow⟩ := completes_cvtuv_after_accum hn hw hdu hdv huv
  obtain ⟨m0, hrow0⟩ := exists_completes_cvty (s := s.setAcc s.accumulated) (k := 0#1) mUV hw hs0 hd0
  obtain ⟨m1, hrow1⟩ := exists_completes_cvty (s := s.setAcc s.accumulated) (k := 1#1) m0 hw hs1 hd1
  have hmUV := huvRow.cvtuv_wf_dst hm
  have hm0 := hrow0.cvty_wf_dst hmUV
  have keep0 (a : Nat) (h : ¬ inRange s.ydst0.toNat s.width.toNat a) : m0.read a = mUV.read a :=
    hrow0.cvty_read_outside hmUV h
  have keep1 (a : Nat) (h : ¬ inRange s.ydst1.toNat s.width.toNat a) : m1.read a = m0.read a :=
    hrow1.cvty_read_outside hm0 h
  have keepUV (a : Nat) (hu : ¬ inRange s.udst.toNat n a) (hv : ¬ inRange s.vdst.toNat n a) :
      mUV.read a = s.dst.read a := by
    rw [hn, ← accumulated_length] at hu hv
    exact huvRow.cvtuv_read_outside hm hu hv
  refine ⟨((s.setAcc s.accumulated).setDst m1).withPort [], ?run, hrun, fun j hj => ⟨?luma0, ?luma1⟩,
    fun i hi => ?chroma, fun a h0 h1 hu hv => ?outside⟩
  case run =>
    calc runWords [0x40000000#32, 0x50000000#32, 0x54000000#32, 0x54000001#32] s
      _ = runWords [0x50000000#32, 0x54000000#32, 0x54000001#32] (s.setAcc s.accumulated) :=
        runWords_of_completes hwf hrun (decode_encode (i := .accum) rfl) haccum
      _ = runWords [0x54000000#32, 0x54000001#32] ((s.setAcc s.accumulated).setDst mUV) :=
        runWords_of_completes hwf hrun (decode_encode (i := .cvtuv) rfl) huvRow
      _ = runWords [0x54000001#32] ((s.setAcc s.accumulated).setDst m0) :=
        runWords_of_completes hwf hrun (decode_encode (i := .cvty 0#1) rfl) hrow0
      _ = runWords [] ((s.setAcc s.accumulated).setDst m1) :=
        runWords_of_completes hwf hrun (decode_encode (i := .cvty 1#1) rfl) hrow1
      _ = .next (((s.setAcc s.accumulated).setDst m1).withPort []) := runWords_nil _
  case luma0 =>
    refine (congrArg BitVec.toNat (keep1 _ (not_inRange_of_apart h01 hj))).trans ?_
    exact hrow0.cvty_read_luma hmUV hj
  case luma1 => exact hrow1.cvty_read_luma hm0 hj
  case chroma =>
    have hU := (keep1 _ (not_inRange_of_apart (apart_symm h1u) hi)).trans
      (keep0 _ (not_inRange_of_apart (apart_symm h0u) hi))
    have hV := (keep1 _ (not_inRange_of_apart (apart_symm h1v) hi)).trans
      (keep0 _ (not_inRange_of_apart (apart_symm h0v) hi))
    obtain ⟨hreadU, hreadV⟩ := huvRow.cvtuv_read_chroma_after_accum hwf hm (hn ▸ hi)
    exact ⟨(congrArg BitVec.toNat hU).trans hreadU, (congrArg BitVec.toNat hV).trans hreadV⟩
  case outside => exact (keep1 a h1).trans ((keep0 a h0).trans (keepUV a hu hv))

end Sys2Proof
end

section
/-! The faults of 60_exceptions.md: every word is answered with a next state (R175), what issuing a word does in the
fault state (R166, R167), what a command that faults leaves (R165), and the host's accesses, which do not depend on
STATUS (R166). -/

namespace Sys2Proof.Machine

/-! Every word is answered. -/

/-- `exec_setSrc` follows every command through all its checks and finds a next state at the end of each path, so with
SRC as it stands it says that the command answers. -/
theorem exec_answers (i : Instr) (s : State) : ∃ t, exec i s = .next t := by
  obtain ⟨t, h, -⟩ := exec_setSrc (s := s) (m := s.src) (fun _ _ _ => rfl) i
  exact ⟨t, h⟩

theorem gate_answers (s t : State) : ∃ u, gate s (.next t) = .next u := by
  by_cases hrun : s.status = 0#4
  · exact ⟨t, gate_run hrun _⟩
  · exact ⟨s, gate_discards hrun _⟩

theorem issue_answers (w : Word) (s : State) : ∃ t, issue w s = .next t := by
  cases hdecode : decode w with
  | ok i => rw [issue_of_decode hdecode]; exact exec_answers i s
  | error e => rw [issue_of_illegal (by simp [hdecode])]; exact gate_answers s _

/-! Issuing a word in the fault state, and the word that enters it. -/

/-- In the fault state a word is discarded or is RESET, which is one word (60_exceptions.md R166, R167). -/
theorem issue_in_fault_state {w : Word} {s t : State} (hfault : s.status ≠ 0#4) (h : issue w s = .next t) :
    t = s ∨ (w = 0x08000000#32 ∧ t = s.doReset) := by
  rcases issue_cases h with ⟨i, hdecode, hexec⟩ | ⟨-, -, ⟨hrun, -⟩ | ⟨-, ht⟩⟩
  · cases exec_cases hexec with
    | discarded _ _ ht => exact .inl ht
    | reset hi ht =>
      obtain ⟨hword, -⟩ := encode_of_decode (hi ▸ hdecode)
      exact .inr ⟨hword.symm, ht⟩
    | raised hrun => exact absurd hrun hfault
    | completed hrun => exact absurd hrun hfault
  · exact absurd hrun hfault
  · exact .inl ht

theorem issue_discards {w : Word} {s : State} (hfault : s.status ≠ 0#4) (hw : w ≠ 0x08000000#32) :
    issue w s = .next s := by
  obtain ⟨t, h⟩ := issue_answers w s
  rcases issue_in_fault_state hfault h with rfl | ⟨hreset, -⟩
  · exact h
  · exact absurd hreset hw

/-- A word that takes the block from the run to the fault state does one fault entry, with itself in ECMD (R165). -/
theorem issue_enters_fault_state {w : Word} {s t : State} (hrun : s.status = 0#4) (h : issue w s = .next t)
    (ht : t.status ≠ 0#4) : ∃ c, t = s.raise c w := by
  rcases issue_cases h with ⟨i, hdecode, hexec⟩ | ⟨-, -, ⟨-, hraise⟩ | ⟨hfault, -⟩⟩
  · cases exec_cases hexec with
    | discarded hfault => exact absurd hrun hfault
    | reset _ hreset => exact absurd (hreset ▸ rfl) ht
    | raised _ c hraise => exact ⟨c, (encode_of_decode hdecode).1 ▸ hraise⟩
    | completed _ hc => exact absurd (hc.keeps_status.trans hrun) ht
  · exact ⟨.illegal, hraise⟩
  · exact absurd hrun hfault

/-! The host's accesses and replies under another STATUS. -/

/-- An access checks its index against the size of its space alone, so it goes the same way under every STATUS. -/
theorem serve_of_serve_withStatus {a : HostAction} {s t : State} {e : BitVec 4} (hcommand : ∀ w, a ≠ .command w)
    (hreset : a ≠ .hardReset) (h : serve a { s with status := e } = .next t) :
    serve a s = .next { t with status := s.status } := by
  cases a with
  | command w => exact absurd rfl (hcommand w)
  | writeSrc i p =>
    obtain ⟨hi, rfl⟩ := of_checked_access h
    exact serve_writeSrc (s := s) hi p
  | readSrc i =>
    obtain ⟨hi, rfl⟩ := of_checked_access h
    exact serve_readSrc (s := s) hi
  | writeDst i v =>
    obtain ⟨hi, rfl⟩ := of_checked_access h
    exact serve_writeDst (s := s) hi v
  | readDst i =>
    obtain ⟨hi, rfl⟩ := of_checked_access h
    exact serve_readDst (s := s) hi
  | readReg n => cases h; rfl
  | hardReset => exact absurd rfl hreset

theorem Reg.ofNum?_status {n : BitVec 4} : Reg.ofNum? n = some (.ro .status) ↔ n = 12#4 := by revert n; decide

theorem State.readReg_withStatus (s : State) (e : BitVec 4) {r : Reg} (hr : r ≠ .ro .status) :
    State.readReg { s with status := e } r = s.readReg r := by
  cases r with
  | rw r => cases r <;> rfl
  | ro r =>
    cases r with
    | status => exact absurd rfl hr
    | res | accn | ecmd => rfl

theorem State.readPort_withStatus (s : State) (e : BitVec 4) {n : BitVec 4} (hn : n ≠ 12#4) :
    State.readPort { s with status := e } n = s.readPort n := by
  rw [State.readPort, State.readPort]
  split
  next r hr => exact s.readReg_withStatus e fun h => hn (Reg.ofNum?_status.mp (h ▸ hr))
  next => rfl

theorem State.readPort_status (s : State) : s.readPort 12#4 = BitVec.ofNat 32 s.status.toNat :=
  (BitVec.ofNat_toNat 32 s.status).symm

theorem reply_withStatus (s : State) (e : BitVec 4) {a : HostAction} (ha : a ≠ .readReg 12#4) :
    a.reply { s with status := e } = a.reply s := by
  cases a with
  | readReg n => exact congrArg some (s.readPort_withStatus e fun h => ha (h ▸ rfl))
  | command | writeSrc | readSrc | writeDst | readDst | hardReset => rfl

end Sys2Proof.Machine

namespace Sys2Proof

open Sys2Proof.Machine

/-- Settles O7: in the fault state every word but RESET's is discarded, and no access, nor any reply but register 12's,
reads STATUS. -/
theorem faultStateDiscardsEveryWordButReset : Obligations.FaultStateDiscardsEveryWordButReset := by
  unfold Obligations.FaultStateDiscardsEveryWordButReset
  intro s a rest hwf hfault hport
  refine ⟨fun w ha hw => ?discarded, fun hcommand hreset t ht => ?access, fun ha => (reply_withStatus s _ ha).symm,
    fun ha => ?status⟩
  case discarded =>
    subst ha
    exact (step_of_pending hwf hport).trans (issue_discards (s := s.withPort rest) hfault hw)
  case access =>
    have hserve := (step_of_pending (s := { s with status := 0#4 }) hwf hport).symm.trans ht
    exact (step_of_pending hwf hport).trans (serve_of_serve_withStatus (s := s.withPort rest) hcommand hreset hserve)
  case status =>
    subst ha
    exact congrArg some s.readPort_status

/-- Settles O8: a legal word's command answers a next state, and so does the gate an illegal word meets. -/
theorem everyCommandWordHasASuccessor : Obligations.EveryCommandWordHasASuccessor := by
  unfold Obligations.EveryCommandWordHasASuccessor
  intro s w rest hwf hport
  rw [step_of_pending hwf hport]
  exact issue_answers w (s.withPort rest)

/-- Settles O40: the one way from the run state to the fault state is a fault entry, whose code is 1 to 7. -/
theorem faultWritesOnlyStatusAndEcmd : Obligations.FaultWritesOnlyStatusAndEcmd := by
  unfold Obligations.FaultWritesOnlyStatusAndEcmd
  intro s t w rest hport hrun hstep ht
  obtain ⟨hwf, -⟩ := step_cases hstep
  have hissue : issue w (s.withPort rest) = .next t := (step_of_pending hwf hport).symm.trans hstep
  obtain ⟨c, rfl⟩ := issue_enters_fault_state (s := s.withPort rest) hrun hissue ht
  exact ⟨Nat.pos_of_ne_zero fun h => ht (BitVec.eq_of_toNat_eq h), (Cause.code_range c).2, rfl⟩

/-- Settles O41: an access leaves STATUS and ECMD alone, and a word is discarded unless it is RESET's. -/
theorem onlyResetLeavesTheFaultState : Obligations.OnlyResetLeavesTheFaultState := by
  unfold Obligations.OnlyResetLeavesTheFaultState
  intro s t hfault hstep
  obtain ⟨-, ⟨-, rfl⟩ | ⟨a, rest, hport, hserve⟩⟩ := step_cases hstep
  · exact .inl ⟨rfl, rfl⟩
  · rcases serve_cases hserve with ⟨w, rfl, hissue⟩ | ⟨i, p, -, -, rfl⟩ | ⟨i, v, -, -, rfl⟩ | ⟨rfl, rfl⟩ | rfl
    · rcases issue_in_fault_state (s := s.withPort rest) hfault hissue with rfl | ⟨rfl, rfl⟩
      · exact .inl ⟨rfl, rfl⟩
      · exact .inr ⟨rest, .inr hport, s.withPort_doReset rest⟩
    · exact .inl ⟨rfl, rfl⟩
    · exact .inl ⟨rfl, rfl⟩
    · exact .inr ⟨rest, .inl hport, s.withPort_doReset rest⟩
    · exact .inl ⟨rfl, rfl⟩

end Sys2Proof
end

section
/-! The hazards between ACCUM and CVTUV of 70_reset_and_hazards.md: CVTUV reads none of WIDTH, SRC0 and SRC1, and SET
leaves ACC alone (R197). -/

namespace Sys2Proof.Machine

/-- WIDTH, SRC0 and SRC1, by which ACCUM reads its two rows (42_accumulate.md R111), set anew. -/
def State.withSourceRows (s : State) (w : BitVec 14) (x y : BitVec 22) : State :=
  { s with width := w, src0 := x, src1 := y }

/-- Each check of CVTUV, and the rows it writes, are about ACC, the DST bases and the configuration (43_convert.md R131),
so from both states it takes the same path. -/
theorem exec_cvtuv_withSourceRows (s : State) (w : BitVec 14) (x y : BitVec 22) :
    ∃ t, exec .cvtuv s = .next t ∧ exec .cvtuv (s.withSourceRows w x y) = .next (t.withSourceRows w x y) := by
  by_cases hrun : s.status = 0#4
  case neg => exact ⟨s, gate_discards hrun _, gate_discards (s := s.withSourceRows w x y) hrun _⟩
  by_cases hn : s.acc.length = 0
  case pos =>
    exact ⟨_, exec_cvtuv_noEntries hrun hn, exec_cvtuv_noEntries (s := s.withSourceRows w x y) hrun hn⟩
  by_cases hbounds : s.dstInBounds s.udst.toNat s.acc.length ∧ s.dstInBounds s.vdst.toNat s.acc.length
  case neg =>
    have hout := not_and_or.mp hbounds
    exact ⟨_, exec_cvtuv_outOfBounds hrun hn hout,
      exec_cvtuv_outOfBounds (s := s.withSourceRows w x y) hrun hn hout⟩
  obtain ⟨hu, hv⟩ := hbounds
  by_cases hshare : rangesOverlap s.udst.toNat s.vdst.toNat s.acc.length
  case pos =>
    exact ⟨_, exec_cvtuv_overlap hrun hn hu hv hshare,
      exec_cvtuv_overlap (s := s.withSourceRows w x y) hrun hn hu hv hshare⟩
  case neg =>
    exact ⟨_, exec_of_completes hrun (.cvtuv hn hu hv hshare),
      exec_of_completes (s := s.withSourceRows w x y) hrun (.cvtuv hn hu hv hshare)⟩

/-- Only ACCUM and RESET change ACC (10_state.md R21, R30). -/
theorem exec_set_keeps_acc {s t : State} {reg : BitVec 4} {imm : BitVec 22} (h : exec (.set reg imm) s = .next t) :
    t.acc = s.acc := by
  obtain ⟨-, -, -, hacc, -⟩ := eachCommandWritesOnlyItsOwnState _ s t h
  by_contra hne
  rcases hacc hne with hset | hset <;> cases hset

end Sys2Proof.Machine

namespace Sys2Proof

open Sys2Proof.Machine

/-- Settles O34: CVTUV takes the same path under any WIDTH, SRC0 and SRC1; ACCN is the number of entries of ACC, which
SET keeps. -/
theorem cvtuvUsesAccnNotWidth : Obligations.CvtuvUsesAccnNotWidth := by
  unfold Obligations.CvtuvUsesAccnNotWidth
  refine ⟨fun s t w x y h => ?cvtuv, fun s t reg imm h => ?set⟩
  case cvtuv =>
    obtain ⟨t', hplain, hrows⟩ := exec_cvtuv_withSourceRows s w x y
    cases h.symm.trans hplain
    exact hrows
  case set =>
    have hacc := exec_set_keeps_acc h
    exact ⟨hacc, by rw [State.accn, State.accn, hacc]⟩

end Sys2Proof
end
